-- ==== Sys2Proof/Word.lean ====
section
/-! DEFINITION. The widths of 00_scope R11: bytes, 16-bit fields, and texts as sequences of 8-bit codes (R14). -/

namespace Sys2Proof

/-- A byte has 8 bits (R11). -/
abbrev Byte := BitVec 8

/-- Header addresses, label indices and 2-byte literals are 16-bit unsigned (R11). -/
abbrev Word16 := BitVec 16

/-- A text value is a finite sequence of 8-bit character codes (R14, D23). -/
abbrev Text := List Byte

end Sys2Proof
end

