-- ==== Sys2Proof/Syntax.lean ====
section
/-! DEFINITION. The instructions of the block: one constructor for each row of spec/opcode_table.json, in the
table's order, with the fields of its encoding (30_encoding) already pulled out. -/

namespace Sys2Proof

/-- The five screen formats (R85). -/
inductive Screen
  | sc5 | sc7 | sc8 | s10 | s12
  deriving DecidableEq, Repr

/-- The eight operations, each selected by the format tag of the same name (R2). -/
inductive Operation
  | screen (f : Screen)
  | bas | wb2 | stp
  deriving DecidableEq, Repr

/-- A value of the port `TAG` (R23): one of the eight legal tags, or any other value.
DESIGN CHOICE (log 7): a value outside the closed set is named by a number the host gives it. -/
inductive Tag
  | legal (o : Operation)
  | other (n : Nat)
  deriving DecidableEq, Repr

/-- The instruction set: 9 operations and 46 pixel words, headers, records and tokens. -/
inductive Instr
  /-- SC5, screen 5 (R100). -/
  | sc5
  /-- SC7, screen 7 (R101). -/
  | sc7
  /-- SC8, screen 8 (R102). -/
  | sc8
  /-- S10, screen 10 (R103). -/
  | s10
  /-- S12, screen 12 (R104). -/
  | s12
  /-- BAS, the tokenized-BASIC walker (R109). -/
  | bas
  /-- WB2, the tokenized-assembler walker (R134). -/
  | wb2
  /-- STP, the stamp unpacker (R108). -/
  | stp
  /-- UNKNOWN, a tag outside the closed set, with its number (R156). -/
  | unknown (n : Nat)
  /-- PALWORD, one palette colour (R60, R77). -/
  | palword (r g b : BitVec 3)
  /-- NIB, a nibble-packed pixel byte (R57, R91). -/
  | nib (hi lo : BitVec 4)
  /-- RGB8, a byte-packed pixel byte (R58, R93). -/
  | rgb8 (g r : BitVec 3) (b : BitVec 2)
  /-- YJKGRP, the four bytes of a chroma-luma group (R59, R95). -/
  | yjkgrp (g0 g1 g2 g3 : Byte)
  /-- YAE, a palette escape; `idx` is `Y >> 1` of an odd `Y` (R59, R96). -/
  | yae (idx : BitVec 4)
  /-- YJK, a chroma-luma pixel of luma `y` (R59, R97). -/
  | yjk (y : BitVec 5)
  /-- STPHDR, the stamp header (R61, R105). -/
  | stphdr (sw sh : Word16)
  /-- STP0, a stamp pair of value 0 (R107). -/
  | stp0
  /-- STP1, a stamp pair of value 1 (R107). -/
  | stp1
  /-- STPHI, a stamp pair of value 2 (`low = 0`) or 3 (`low = 1`) (R107). -/
  | stphi (low : BitVec 1)
  /-- SCRHDR, the screen header (R56, R86). -/
  | scrhdr (beg fin : Word16)
  /-- BAS.EOL, the zero byte that ends a line (R110). -/
  | basEol
  /-- BAS.INT2, a 2-byte literal; `const` is 1 for the byte 0x1C, 0 for 0x0E (R113). -/
  | basInt2 (const : Bool) (v : Word16)
  /-- BAS.INT1, a 1-byte literal (R114). -/
  | basInt1 (v : Byte)
  /-- BAS.FLT4, a BCD float literal (R115). -/
  | basFlt4 (f0 f1 f2 f3 : Byte)
  /-- BAS.COLREM, `3A 8F` (R116). -/
  | basColrem
  /-- BAS.COLELSE, `3A` before `A1` (R117). -/
  | basColelse
  /-- BAS.EXT, an extended keyword (R118). -/
  | basExt (e : Byte)
  /-- BAS.PRIM, a primary keyword (R119). -/
  | basPrim (b : Byte)
  /-- BAS.STR, a quoted string: the bytes after the opening quote, and whether a closing quote follows them (R120). -/
  | basStr (body : List Byte) (closed : Bool)
  /-- BAS.CHR, a printable character (R121). -/
  | basChr (b : Byte)
  /-- BAS.DIG, the digit `d = b − 0x11` (R122). -/
  | basDig (d : BitVec 4)
  /-- BAS.UNL, a byte no class lists (R123). -/
  | basUnl (b : Byte)
  /-- BAS.BCD, the four bytes of a BCD float (R64, R125). -/
  | basBcd (f0 f1 f2 f3 : Byte)
  /-- BAS.FILE, the BASIC signature byte (R62, R109). -/
  | basFile
  /-- WB.FILE, the WBASS2 signature byte (R65, R134). -/
  | wbFile
  /-- WB.PREPASS, one length byte of the label-table locator (R135). -/
  | wbPrepass (l : Byte)
  /-- WB.END, the length byte 0xFF (R66, R134). -/
  | wbEnd
  /-- WB.BLANK, the length byte 0x00 (R66, R136). -/
  | wbBlank
  /-- WB.REC, the length byte of a record without label; `l` is the declared length (R66, R138). -/
  | wbRec (l : BitVec 7)
  /-- WB.LREC, the length byte of a record with label; `l` is the declared length (R66, R138). -/
  | wbLrec (l : BitVec 7)
  /-- WB.SLOT, the name in a label slot (R69, R139). -/
  | wbSlot (name : List (BitVec 7))
  /-- WB.LCMT, a comment line and its text (R67, R141). -/
  | wbLcmt (text : List Byte)
  /-- WB.LMN, an instruction mnemonic; `m = lead − 128` (R67, R142). -/
  | wbLmn (m : BitVec 7)
  /-- WB.LUNL, a lead byte no class lists (R67, R143). -/
  | wbLunl (b : Byte)
  /-- WB.CMT, a trailing comment and its text (R68, R145). -/
  | wbCmt (text : List Byte)
  /-- WB.OP, an operator or punctuation byte (R68, R146). -/
  | wbOp (b : Byte)
  /-- WB.STR, a quoted string: the bytes after the opening quote, and whether a closing quote follows them (R147). -/
  | wbStr (body : List Byte) (closed : Bool)
  /-- WB.LREF, a label reference (R68, R148). -/
  | wbLref (idx : Word16)
  /-- WB.NUMD, a decimal literal (R149). -/
  | wbNumd (v : Word16)
  /-- WB.NUMH, a hexadecimal literal (R149). -/
  | wbNumh (v : Word16)
  /-- WB.NUMB, a binary literal (R149). -/
  | wbNumb (v : Word16)
  /-- WB.LOGIC, a logical-operator byte (R151). -/
  | wbLogic (b : Byte)
  /-- WB.COND, a condition byte (R151). -/
  | wbCond (b : Byte)
  /-- WB.REG, a register; `r = b − 128` (R151). -/
  | wbReg (r : BitVec 4)
  /-- WB.TUNL, an operand byte no class lists (R152). -/
  | wbTunl (b : Byte)
  deriving DecidableEq, Repr

end Sys2Proof
end

