-- ==== Sys2Proof/WellFormed.lean ====
section
/-! DEFINITION. Which instruction terms an encoding of 30_encoding can spell. -/

namespace Sys2Proof

/-- The byte ranges and lengths that 30_encoding R63, R66 to R69 give the fields that are not full bit fields. -/
def Instr.wf : Instr → Bool
  | .basPrim b => decide (0x80 ≤ b.toNat ∧ b.toNat ≤ 0xFE)
  | .basStr body _ => body.all fun c => c != 0x22 && c != 0x00
  | .basChr b => decide (0x20 ≤ b.toNat ∧ b.toNat ≤ 0x7E ∧ b.toNat ≠ 0x22)
  | .basDig d => decide (d.toNat ≤ 9)
  | .basUnl b => decide ((1 ≤ b.toNat ∧ b.toNat ≤ 0x0D) ∨ b.toNat = 0x10 ∨ b.toNat = 0x1B ∨ b.toNat = 0x1E
      ∨ b.toNat = 0x1F ∨ b.toNat = 0x7F)
  | .wbRec l => decide (l.toNat ≠ 0)
  | .wbLrec l => decide (l.toNat ≠ 0x7F)
  | .wbSlot name => decide (name.length ≤ 6) && name.all fun c => c != 0
  | .wbLunl b => decide (b.toNat = 0 ∨ (2 ≤ b.toNat ∧ b.toNat ≤ 0x7F))
  | .wbOp b => decide (2 ≤ b.toNat ∧ b.toNat ≤ 0x1B)
  | .wbStr body _ => body.all fun c => c != 0x22
  | .wbLogic b => decide (0x99 ≤ b.toNat ∧ b.toNat ≠ 0xC0 ∧ b.toNat ≠ 0xE0 ∧ b.toNat ≠ 0xE1 ∧ b.toNat ≠ 0xE2)
  | .wbCond b => decide (0x90 ≤ b.toNat ∧ b.toNat ≤ 0x98)
  | .wbTunl b => decide (b.toNat = 0 ∨ (0x1C ≤ b.toNat ∧ b.toNat ≤ 0x7F ∧ b.toNat ≠ 0x22))
  | .sc5 | .sc7 | .sc8 | .s10 | .s12 | .bas | .wb2 | .stp | .unknown _
  | .palword _ _ _ | .nib _ _ | .rgb8 _ _ _ | .yjkgrp _ _ _ _ | .yae _ | .yjk _
  | .stphdr _ _ | .stp0 | .stp1 | .stphi _ | .scrhdr _ _
  | .basEol | .basInt2 _ _ | .basInt1 _ | .basFlt4 _ _ _ _ | .basColrem | .basColelse | .basExt _
  | .basBcd _ _ _ _ | .basFile | .wbFile | .wbPrepass _ | .wbEnd | .wbBlank
  | .wbLcmt _ | .wbLmn _ | .wbCmt _ | .wbLref _ | .wbNumd _ | .wbNumh _ | .wbNumb _ | .wbReg _ => true

end Sys2Proof
end

