-- ==== Sys2Proof/Decode.lean ====
section
/-! DEFINITION. Reading instructions from bytes, and writing them: 30_encoding R55 to R71.

The block has no instruction words: the same byte means different things in different places of the input. A `Place`
says which layout is being read; `decode` is total on any bytes in any place. -/

namespace Sys2Proof

/-- The places of the input in which an encoding is read (R55 to R69). -/
inductive Place
  /-- The port `TAG` (R55). -/
  | operation (t : Tag)
  /-- The 7-byte header of a screen file (R56). -/
  | screenHeader
  /-- A palette word (R60). -/
  | paletteWord
  /-- A variant-A pixel byte (R57). -/
  | nibbles
  /-- A variant-B pixel byte (R58). -/
  | packedRgb
  /-- A variant-C group (R59). -/
  | group
  /-- A pixel byte of a variant-C group, with or without the YAE escape (R59). -/
  | groupPixel (yae : Bool)
  /-- The 4-byte stamp header (R61). -/
  | stampHeader
  /-- A stamp pair, moved down to bits 1..0 (R61). -/
  | stampPair
  /-- Offset 0 of a BASIC file (R62). -/
  | basSignature
  /-- A BASIC token, or the zero byte that ends the line (R63). -/
  | basToken
  /-- A BCD float (R64). -/
  | bcd
  /-- Offset 0 of a WBASS2 file (R65). -/
  | wbSignature
  /-- A length byte read by the pre-pass (R135). -/
  | prepassLength
  /-- A length byte read by the main pass (R66). -/
  | recordLength
  /-- A label slot (R69). -/
  | labelSlot
  /-- A record from its lead byte to its end (R67). -/
  | lead
  /-- A record from an operand byte to its end (R68). -/
  | operand
  deriving DecidableEq, Repr

/-- Why the bytes in a place spell no instruction. -/
inductive Reject
  /-- Fewer bytes than the format's fixed header (R86, R105, D24). -/
  | shortHeader
  /-- The leading byte is not the sentinel (R109, R134). -/
  | badSignature (b : Byte)
  /-- The pre-pass found no length byte (R135). -/
  | noLengthByte
  /-- An item's bytes run past the bytes there are (R49, D29, D58). -/
  | truncated
  deriving DecidableEq, Repr

/-- `lo | hi << 8` (R44). -/
def le16 (lo hi : Byte) : Word16 := hi ++ lo

/-- The low and the high byte of a 16-bit field (R44). -/
def le16Bytes (v : Word16) : List Byte := [v.extractLsb' 0 8, v.extractLsb' 8 8]

/-- The bytes of a quoted string up to a closing quote (then `true`), or to a byte that satisfies `stop`, or to the end
of the bytes (then `false`), with what follows (R120, R147). -/
def quoted (stop : Byte → Bool) : List Byte → List Byte × Bool × List Byte
  | [] => ([], false, [])
  | c :: rest =>
    if c = 0x22 then ([], true, rest)
    else if stop c then ([], false, c :: rest)
    else
      let r := quoted stop rest
      (c :: r.1, r.2.1, r.2.2)

/-- `Label` reads at most `k` characters of a slot, each masked to 7 bits, up to the first zero; `none` when a byte it
must read is absent (R69, R139, D46, D47). -/
def slotName : Nat → List Byte → Option (List (BitVec 7))
  | 0, _ => some []
  | _ + 1, [] => none
  | k + 1, c :: rest =>
    let ch := c.extractLsb' 0 7
    if ch = 0 then some [] else (slotName k rest).map (ch :: ·)

/-- The operation a tag selects (R2, R55, R156). -/
def decodeTag : Tag → Instr
  | .legal (.screen .sc5) => .sc5
  | .legal (.screen .sc7) => .sc7
  | .legal (.screen .sc8) => .sc8
  | .legal (.screen .s10) => .s10
  | .legal (.screen .s12) => .s12
  | .legal .bas => .bas
  | .legal .wb2 => .wb2
  | .legal .stp => .stp
  | .other n => .unknown n

/-- `R = w[6:4], G = w[10:8], B = w[2:0]`; bits 3, 7 and 15..11 are ignored (R60). -/
def decodePaletteWord (w : Word16) : Instr :=
  .palword (w.extractLsb' 4 3) (w.extractLsb' 8 3) (w.extractLsb' 0 3)

/-- The pixel byte of a group: an escape when the place has the YAE bit and `Y` is odd, that is when bit 3 is 1 (R59). -/
def decodeGroupPixel (yae : Bool) (g : Byte) : Instr :=
  if yae && g.getLsbD 3 then .yae (g.extractLsb' 4 4) else .yjk (g.extractLsb' 3 5)

/-- The pair in bits 1..0 (R61, R107). -/
def decodeStampPair (v : Byte) : Instr :=
  if v.getLsbD 1 then .stphi (v.extractLsb' 0 1) else if v.getLsbD 0 then .stp1 else .stp0

/-- The token classes of R63 in their order of priority, with the line's zero byte before them (R62). -/
def decodeBasToken : List Byte → Except Reject (Instr × List Byte)
  | [] => .error .truncated
  | b :: rest =>
    if b = 0x00 then .ok (.basEol, rest)
    else if b = 0x0E ∨ b = 0x1C then
      match rest with
      | lo :: hi :: tail => .ok (.basInt2 (decide (b = 0x1C)) (le16 lo hi), tail)
      | _ => .error .truncated
    else if b = 0x0F then
      match rest with
      | v :: tail => .ok (.basInt1 v, tail)
      | _ => .error .truncated
    else if b = 0x1D then
      match rest with
      | f0 :: f1 :: f2 :: f3 :: tail => .ok (.basFlt4 f0 f1 f2 f3, tail)
      | _ => .error .truncated
    else if b = 0x3A ∧ rest.head? = some 0x8F then .ok (.basColrem, rest.tail)
    else if b = 0x3A ∧ rest.head? = some 0xA1 then .ok (.basColelse, rest)
    else if b = 0xFF then
      match rest with
      | e :: tail => .ok (.basExt e, tail)
      | _ => .error .truncated
    else if 0x80 ≤ b.toNat then .ok (.basPrim b, rest)
    else if b = 0x22 then
      let q := quoted (fun c => c == 0x00) rest
      .ok (.basStr q.1 q.2.1, q.2.2)
    else if 0x20 ≤ b.toNat ∧ b.toNat ≤ 0x7E then .ok (.basChr b, rest)
    else if 0x11 ≤ b.toNat ∧ b.toNat ≤ 0x1A then .ok (.basDig (BitVec.ofNat 4 (b.toNat - 0x11)), rest)
    else .ok (.basUnl b, rest)

/-- The length byte of a record in the main pass (R66). -/
def decodeLength (b : Byte) : Instr :=
  if b = 0xFF then .wbEnd
  else if b = 0x00 then .wbBlank
  else if b.getLsbD 7 then .wbLrec (b.extractLsb' 0 7)
  else .wbRec (b.extractLsb' 0 7)

/-- The lead byte of a line record, in the bytes from it to the record end (R67). -/
def decodeLead : List Byte → Except Reject (Instr × List Byte)
  | [] => .error .truncated
  | b :: rest =>
    if b = 0x01 then .ok (.wbLcmt rest, [])
    else if 0x80 ≤ b.toNat then .ok (.wbLmn (b.extractLsb' 0 7), rest)
    else .ok (.wbLunl b, rest)

/-- The LE16 operand after an operand byte, or a rejection where the record is too short for it (R148, R149, D58). -/
def decodeOperand16 (f : Word16 → Instr) : List Byte → Except Reject (Instr × List Byte)
  | lo :: hi :: tail => .ok (f (le16 lo hi), tail)
  | _ => .error .truncated

/-- The operand classes of R68 in their order of priority, in the bytes from the operand byte to the record end. -/
def decodeOperand : List Byte → Except Reject (Instr × List Byte)
  | [] => .error .truncated
  | b :: rest =>
    if b = 0x01 then .ok (.wbCmt rest, [])
    else if 0x02 ≤ b.toNat ∧ b.toNat ≤ 0x1B then .ok (.wbOp b, rest)
    else if b = 0x22 then
      let q := quoted (fun _ => false) rest
      .ok (.wbStr q.1 q.2.1, q.2.2)
    else if b = 0xC0 then decodeOperand16 .wbLref rest
    else if b = 0xE0 then decodeOperand16 .wbNumd rest
    else if b = 0xE1 then decodeOperand16 .wbNumh rest
    else if b = 0xE2 then decodeOperand16 .wbNumb rest
    else if 0x99 ≤ b.toNat then .ok (.wbLogic b, rest)
    else if 0x90 ≤ b.toNat then .ok (.wbCond b, rest)
    else if 0x80 ≤ b.toNat then .ok (.wbReg (b.extractLsb' 0 4), rest)
    else .ok (.wbTunl b, rest)

/-- The decoder: the instruction the bytes spell in a place, and the bytes after it; total, rejecting by name. -/
def decode : Place → List Byte → Except Reject (Instr × List Byte)
  | .operation t, bs => .ok (decodeTag t, bs)
  | .screenHeader, _ :: b1 :: b2 :: b3 :: b4 :: _ :: _ :: rest => .ok (.scrhdr (le16 b1 b2) (le16 b3 b4), rest)
  | .screenHeader, _ => .error .shortHeader
  | .paletteWord, lo :: hi :: rest => .ok (decodePaletteWord (le16 lo hi), rest)
  | .paletteWord, _ => .error .truncated
  | .nibbles, v :: rest => .ok (.nib (v.extractLsb' 4 4) (v.extractLsb' 0 4), rest)
  | .nibbles, [] => .error .truncated
  | .packedRgb, v :: rest => .ok (.rgb8 (v.extractLsb' 5 3) (v.extractLsb' 2 3) (v.extractLsb' 0 2), rest)
  | .packedRgb, [] => .error .truncated
  | .group, g0 :: g1 :: g2 :: g3 :: rest => .ok (.yjkgrp g0 g1 g2 g3, rest)
  | .group, _ => .error .truncated
  | .groupPixel yae, g :: rest => .ok (decodeGroupPixel yae g, rest)
  | .groupPixel _, [] => .error .truncated
  | .stampHeader, b0 :: b1 :: b2 :: b3 :: rest => .ok (.stphdr (le16 b0 b1) (le16 b2 b3), rest)
  | .stampHeader, _ => .error .shortHeader
  | .stampPair, v :: rest => .ok (decodeStampPair v, rest)
  | .stampPair, [] => .error .truncated
  | .basSignature, b :: rest => if b = 0xFF then .ok (.basFile, rest) else .error (.badSignature b)
  | .basSignature, [] => .error .shortHeader
  | .basToken, bs => decodeBasToken bs
  | .bcd, f0 :: f1 :: f2 :: f3 :: rest => .ok (.basBcd f0 f1 f2 f3, rest)
  | .bcd, _ => .error .truncated
  | .wbSignature, b :: rest => if b = 0xFD then .ok (.wbFile, rest) else .error (.badSignature b)
  | .wbSignature, [] => .error .shortHeader
  | .prepassLength, l :: rest => .ok (.wbPrepass l, rest)
  | .prepassLength, [] => .error .noLengthByte
  | .recordLength, l :: rest => .ok (decodeLength l, rest)
  | .recordLength, [] => .error .truncated
  | .labelSlot, bs =>
    match slotName 6 bs with
    | some name => .ok (.wbSlot name, bs.drop 8)
    | none => .error .truncated
  | .lead, bs => decodeLead bs
  | .operand, bs => decodeOperand bs

/-! ### The encoder -/

/-- The place in which an instruction's encoding is read. A YJK byte is also read in `groupPixel true`, when its luma is even. -/
def Instr.place : Instr → Place
  | .sc5 => .operation (.legal (.screen .sc5))
  | .sc7 => .operation (.legal (.screen .sc7))
  | .sc8 => .operation (.legal (.screen .sc8))
  | .s10 => .operation (.legal (.screen .s10))
  | .s12 => .operation (.legal (.screen .s12))
  | .bas => .operation (.legal .bas)
  | .wb2 => .operation (.legal .wb2)
  | .stp => .operation (.legal .stp)
  | .unknown n => .operation (.other n)
  | .palword _ _ _ => .paletteWord
  | .nib _ _ => .nibbles
  | .rgb8 _ _ _ => .packedRgb
  | .yjkgrp _ _ _ _ => .group
  | .yae _ => .groupPixel true
  | .yjk _ => .groupPixel false
  | .stphdr _ _ => .stampHeader
  | .stp0 => .stampPair
  | .stp1 => .stampPair
  | .stphi _ => .stampPair
  | .scrhdr _ _ => .screenHeader
  | .basEol => .basToken
  | .basInt2 _ _ => .basToken
  | .basInt1 _ => .basToken
  | .basFlt4 _ _ _ _ => .basToken
  | .basColrem => .basToken
  | .basColelse => .basToken
  | .basExt _ => .basToken
  | .basPrim _ => .basToken
  | .basStr _ _ => .basToken
  | .basChr _ => .basToken
  | .basDig _ => .basToken
  | .basUnl _ => .basToken
  | .basBcd _ _ _ _ => .bcd
  | .basFile => .basSignature
  | .wbFile => .wbSignature
  | .wbPrepass _ => .prepassLength
  | .wbEnd => .recordLength
  | .wbBlank => .recordLength
  | .wbRec _ => .recordLength
  | .wbLrec _ => .recordLength
  | .wbSlot _ => .labelSlot
  | .wbLcmt _ => .lead
  | .wbLmn _ => .lead
  | .wbLunl _ => .lead
  | .wbCmt _ => .operand
  | .wbOp _ => .operand
  | .wbStr _ _ => .operand
  | .wbLref _ => .operand
  | .wbNumd _ => .operand
  | .wbNumh _ => .operand
  | .wbNumb _ => .operand
  | .wbLogic _ => .operand
  | .wbCond _ => .operand
  | .wbReg _ => .operand
  | .wbTunl _ => .operand

/-- The palette word of three 3-bit channels, its ignored bits 0 (R60). -/
def paletteWordOf (r g b : BitVec 3) : Word16 := (0 : BitVec 5) ++ g ++ (0 : BitVec 1) ++ r ++ (0 : BitVec 1) ++ b

/-- A quoted string's bytes after the opening quote (R120, R147). -/
def quotedBytes (body : List Byte) (closed : Bool) : List Byte := body ++ (if closed then [0x22] else [])

/-- The bytes of an instruction: the encoding tables of R56 to R69 read the other way. An operation has no bytes: its
encoding is the tag that its place carries (R55). `COLELSE` is spelled with the lookahead byte it needs (R63). Bytes and
bits that the block does not read are 0. -/
def encode : Instr → List Byte
  | .sc5 => []
  | .sc7 => []
  | .sc8 => []
  | .s10 => []
  | .s12 => []
  | .bas => []
  | .wb2 => []
  | .stp => []
  | .unknown _ => []
  | .palword r g b => le16Bytes (paletteWordOf r g b)
  | .nib hi lo => [hi ++ lo]
  | .rgb8 g r b => [g ++ r ++ b]
  | .yjkgrp g0 g1 g2 g3 => [g0, g1, g2, g3]
  | .yae idx => [idx ++ (1 : BitVec 1) ++ (0 : BitVec 3)]
  | .yjk y => [y ++ (0 : BitVec 3)]
  | .stphdr sw sh => le16Bytes sw ++ le16Bytes sh
  | .stp0 => [0x00]
  | .stp1 => [0x01]
  | .stphi low => [(0 : BitVec 6) ++ (1 : BitVec 1) ++ low]
  | .scrhdr beg fin => 0x00 :: (le16Bytes beg ++ le16Bytes fin ++ [0x00, 0x00])
  | .basEol => [0x00]
  | .basInt2 const v => (if const then 0x1C else 0x0E) :: le16Bytes v
  | .basInt1 v => [0x0F, v]
  | .basFlt4 f0 f1 f2 f3 => [0x1D, f0, f1, f2, f3]
  | .basColrem => [0x3A, 0x8F]
  | .basColelse => [0x3A, 0xA1]
  | .basExt e => [0xFF, e]
  | .basPrim b => [b]
  | .basStr body closed => 0x22 :: quotedBytes body closed
  | .basChr b => [b]
  | .basDig d => [BitVec.ofNat 8 (0x11 + d.toNat)]
  | .basUnl b => [b]
  | .basBcd f0 f1 f2 f3 => [f0, f1, f2, f3]
  | .basFile => [0xFF]
  | .wbFile => [0xFD]
  | .wbPrepass l => [l]
  | .wbEnd => [0xFF]
  | .wbBlank => [0x00]
  | .wbRec l => [(0 : BitVec 1) ++ l]
  | .wbLrec l => [(1 : BitVec 1) ++ l]
  | .wbSlot name => (name.map fun c => (0 : BitVec 1) ++ c) ++ List.replicate (8 - name.length) 0x00
  | .wbLcmt text => 0x01 :: text
  | .wbLmn m => [(1 : BitVec 1) ++ m]
  | .wbLunl b => [b]
  | .wbCmt text => 0x01 :: text
  | .wbOp b => [b]
  | .wbStr body closed => 0x22 :: quotedBytes body closed
  | .wbLref idx => 0xC0 :: le16Bytes idx
  | .wbNumd v => 0xE0 :: le16Bytes v
  | .wbNumh v => 0xE1 :: le16Bytes v
  | .wbNumb v => 0xE2 :: le16Bytes v
  | .wbLogic b => [b]
  | .wbCond b => [b]
  | .wbReg r => [(8 : BitVec 4) ++ r]
  | .wbTunl b => [b]

/-- What stands after an instruction in its own encoding: `COLELSE` leaves the 0xA1 it only looks at (R63); everything
else is consumed. -/
def Instr.leaves : Instr → List Byte
  | .basColelse => [0xA1]
  | _ => []

/-! ### The words of the opcode table -/

/-- The place in which a bare word of the opcode table is read. Several rows of the table have the same word in
different places (0xFF is BAS.EXT, BAS.FILE and WB.END); each word is given one of its places (DESIGN CHOICE, log 11). -/
def tablePlace (nbits w : Nat) : Option Place :=
  if nbits = 0 then none
  else if nbits ≤ 8 then
    let b := w % 256
    if b < 4 then some .stampPair
    else if b = 0x08 then some (.groupPixel true)
    else if b = 0xFD then some .wbSignature
    else if 0x80 ≤ b ∧ b ≤ 0x8F then some .operand
    else if b = 0xC0 ∨ (0xE0 ≤ b ∧ b ≤ 0xE2) then some .operand
    else some .basToken
  else if nbits ≤ 16 then
    if w % 65536 = 0x8F3A ∨ w % 65536 = 0xA13A then some .basToken else some .paletteWord
  else if nbits ≤ 32 then some .group
  else if nbits ≤ 56 then some .screenHeader
  else if nbits ≤ 64 then some .labelSlot
  else none

/-- `count` bytes of a word, the least significant first. -/
def wordBytes : Nat → Nat → List Byte
  | 0, _ => []
  | count + 1, w => BitVec.ofNat 8 w :: wordBytes count (w / 256)

/-- The bytes of a table word of `nbits` bits, and zeros above them up to eight bytes, which no fixed-length item exceeds. -/
def tableBytes (nbits w : Nat) : List Byte := wordBytes 8 (w % 2 ^ nbits)

/-- The instruction the decoder reads from a word of the opcode table. -/
def decodeTableWord (nbits w : Nat) : Option Instr :=
  match tablePlace nbits w with
  | none => none
  | some pl =>
    match decode pl (tableBytes nbits w) with
    | .ok r => some r.1
    | .error _ => none

end Sys2Proof
end

