-- ==== Sys2Proof/Config.lean ====
section
/-! DEFINITION. What an implementation fixes: the parameter record `P` of 00_scope R9 as a type, and the free
values, which the spec does not state and about which nothing can be proved. -/

namespace Sys2Proof

/-- A colour of three 8-bit intensities (R29). -/
structure Rgb where
  r : Byte
  g : Byte
  b : Byte
  deriving DecidableEq, Repr

/-- A direct colour with its alpha channel (R30). -/
structure Rgba where
  r : Byte
  g : Byte
  b : Byte
  a : Byte
  deriving DecidableEq, Repr

/-- `P.HEXCASE`: the case of hexadecimal digits a to f in a BCD mantissa (R9, D38). -/
inductive HexCase
  | lower | upper
  deriving DecidableEq, Repr

/-- `P.POSEXP_ADJ`: the adjustment of the exponent printed for BCD exponents 15 to 63 (R9, D41). -/
inductive PosExpAdj
  | zero | minusOne
  deriving DecidableEq, Repr

/-- `P.BAS_UNLISTED` and `P.WB_UNLISTED`: what a walker does with a byte no source case classifies (R9, D34, D52, D53).
DESIGN CHOICE (log 10): the defined action that may replace the refusal is to emit a given text. -/
inductive UnlistedAction
  | refuse
  | emit (t : Text)
  deriving DecidableEq, Repr

/-- `P.STAMP_HIGH`: the colour of stamp pixel values 2 and 3 (R9, D20).
DESIGN CHOICE (log 10): the defined action draws entry `two` or `three` of the stamp's two-entry palette. -/
inductive StampAction
  | refuse
  | draw (two three : BitVec 1)
  deriving DecidableEq, Repr

/-- The parameter record `P` (R9, R38). `P.POFF` is `NONE` for SC8 and S12 whatever `P` is (R85). -/
structure Params where
  wSc5 : Nat
  wSc7 : Nat
  wSc8 : Nat
  wS10 : Nat
  wS12 : Nat
  poffSc5 : Option Word16
  poffSc7 : Option Word16
  poffS10 : Option Word16
  i2 : Vector Byte 4
  i3 : Vector Byte 8
  i5 : Vector Byte 32
  defpal : Vector Rgb 16
  basPrim : List Text
  basExt : List Text
  wbMnem : List Text
  wbReg : List Text
  wbCond : List Text
  wbLogic : List Text
  wbOp : List Text
  hexCase : HexCase
  posExpAdj : PosExpAdj
  basUnlisted : UnlistedAction
  wbUnlisted : UnlistedAction
  stampHigh : StampAction
  deriving DecidableEq, Repr

/-- FREE VALUE (log 8): the `info` of a `TruncatedPayload` that `MemRead` raises. R15 and R49 name the error and no
rule fixes its `info` (95 V127). It may depend on the whole input `D` and on the offset of the item being read. -/
opaque Config.memReadInfo : List (Nat × Byte) → Nat → Int

/-- FREE VALUE (log 9): the quotient `a / 0`. R12 defines `/` for what the rules divide by; a parameter `P.W` of 0 or 1
makes the row width 0, and the spec states no quotient there. -/
opaque Config.quotientByZero : Nat → Nat

/-- FREE VALUE (log 9): the remainder `a % 0`. R12 uses `%` with a positive divisor only. -/
opaque Config.remainderByZero : Nat → Nat

end Sys2Proof
end

