-- ==== Sys2Proof/Machine/Ref.lean ====
section
/-! DEFINITION. `REF`, the reference parameter record (00_scope R10), with the values of 92_eei_decisions sections A to E.
PRESUMED (log 3): those values are general knowledge of the platform, not the source's. -/

namespace Sys2Proof.Machine

/-- The ASCII codes of a literal (R14). -/
def asc (s : String) : Text := s.toList.map fun c => BitVec.ofNat 8 c.toNat

/-- REF `P.BAS_PRIM`, for the token bytes 0x81 to 0xFC (92 section D). -/
def basPrimKeywords : List String :=
  ["END", "FOR", "NEXT", "DATA", "INPUT", "DIM", "READ", "LET", "GOTO", "RUN", "IF", "RESTORE", "GOSUB", "RETURN", "REM", "STOP"] ++
  ["PRINT", "CLEAR", "LIST", "NEW", "ON", "WAIT", "DEF", "POKE", "CONT", "CSAVE", "CLOAD", "OUT", "LPRINT", "LLIST", "CLS", "WIDTH"] ++
  ["ELSE", "TRON", "TROFF", "SWAP", "ERASE", "ERROR", "RESUME", "DELETE", "AUTO", "RENUM", "DEFSTR", "DEFINT", "DEFSNG", "DEFDBL", "LINE", "OPEN"] ++
  ["FIELD", "GET", "PUT", "CLOSE", "LOAD", "MERGE", "FILES", "LSET", "RSET", "SAVE", "LFILES", "CIRCLE", "COLOR", "DRAW", "PAINT", "BEEP"] ++
  ["PLAY", "PSET", "PRESET", "SOUND", "SCREEN", "VPOKE", "SPRITE", "VDP", "BASE", "CALL", "TIME", "KEY", "MAX", "MOTOR", "BLOAD", "BSAVE"] ++
  ["DSKO$", "SET", "NAME", "KILL", "IPL", "COPY", "CMD", "LOCATE", "TO", "THEN", "TAB(", "STEP", "USR", "FN", "SPC(", "NOT"] ++
  ["ERL", "ERR", "STRING$", "USING", "INSTR", "'", "VARPTR", "CSRLIN", "ATTR$", "DSKI$", "OFF", "INKEY$", "POINT", ">", "=", "<"] ++
  ["+", "-", "*", "/", "^", "AND", "OR", "XOR", "EQV", "IMP", "MOD", "\\"]

/-- REF `P.BAS_EXT`, for the bytes 0x81 to 0xB0 after 0xFF (92 section D). -/
def basExtKeywords : List String :=
  ["LEFT$", "RIGHT$", "MID$", "SGN", "INT", "ABS", "SQR", "RND", "SIN", "LOG", "EXP", "COS", "TAN", "ATN", "FRE", "INP"] ++
  ["POS", "LEN", "STR$", "VAL", "ASC", "CHR$", "PEEK", "VPEEK", "SPACE$", "OCT$", "HEX$", "LPOS", "BIN$", "CINT", "CSNG", "CDBL"] ++
  ["FIX", "STICK", "STRIG", "PDL", "PAD", "DSKF", "FPOS", "CVI", "CVS", "CVD", "EOF", "LOC", "LOF", "MKI$", "MKS$", "MKD$"]

/-- REF `P.DEFPAL`, the default palette (92 section C). -/
def refDefpal : Vector Rgb 16 :=
  #v[⟨0, 0, 0⟩, ⟨0, 0, 0⟩, ⟨36, 219, 36⟩, ⟨109, 255, 109⟩, ⟨36, 36, 255⟩, ⟨73, 109, 255⟩, ⟨182, 36, 36⟩, ⟨73, 219, 255⟩,
     ⟨255, 36, 36⟩, ⟨255, 109, 109⟩, ⟨219, 219, 36⟩, ⟨219, 219, 146⟩, ⟨36, 146, 36⟩, ⟨219, 73, 182⟩, ⟨182, 182, 182⟩, ⟨255, 255, 255⟩]

/-- REF `P.I5` (92 section B). -/
def refI5 : Vector Byte 32 :=
  #v[0, 8, 16, 25, 33, 41, 49, 58, 66, 74, 82, 90, 99, 107, 115, 123,
     132, 140, 148, 156, 165, 173, 181, 189, 197, 206, 214, 222, 230, 239, 247, 255]

/-- `REF` (R10). DESIGN CHOICE (log 4): the five WBASS2 dictionaries, which stay OPEN (D54), hold only the entries that
a source example gives: "LD", "A" and ",". -/
def refParams : Params where
  wSc5 := 256
  wSc7 := 512
  wSc8 := 256
  wS10 := 256
  wS12 := 256
  poffSc5 := some 0x7680
  poffSc7 := some 0xFA80
  poffS10 := some 0xFA80
  i2 := #v[0, 85, 170, 255]
  i3 := #v[0, 36, 73, 109, 146, 182, 219, 255]
  i5 := refI5
  defpal := refDefpal
  basPrim := basPrimKeywords.map asc
  basExt := basExtKeywords.map asc
  wbMnem := [asc "LD"]
  wbReg := [asc "A"]
  wbCond := []
  wbLogic := []
  wbOp := [asc ","]
  hexCase := .lower
  posExpAdj := .minusOne
  basUnlisted := .refuse
  wbUnlisted := .refuse
  stampHigh := .refuse

end Sys2Proof.Machine
end

