-- ==== Sys2Proof/Machine/Spell.lean ====
section
/-! DEFINITION. The spellings of numbers as text: `dec`, `hexw`, `binw`, `pad03`, `pad02` of 00_scope R14, and `hex2` of
43_basic R125. -/

namespace Sys2Proof.Machine

/-- The digits of `n` in a base of at least 2, the most significant first, before the digits `acc`; the first argument
bounds their number. -/
def digitsAux (base : Nat) : Nat → Nat → List Nat → List Nat
  | 0, _, acc => acc
  | fuel + 1, n, acc => if n < base then n :: acc else digitsAux base fuel (n / base) (n % base :: acc)

/-- The digits of `n` with no leading zeros, and `[0]` for 0. -/
def digits (base n : Nat) : List Nat := digitsAux base (n + 1) n []

/-- The code of a digit: `0` to `9`, then letters in the given case. -/
def digitCode (c : HexCase) (d : Nat) : Byte :=
  if d < 10 then BitVec.ofNat 8 (0x30 + d)
  else match c with
    | .lower => BitVec.ofNat 8 (0x61 + (d - 10))
    | .upper => BitVec.ofNat 8 (0x41 + (d - 10))

/-- Zero-padded on the left to at least `k` characters (R14). -/
def padZeros (k : Nat) (t : Text) : Text := List.replicate (k - t.length) 0x30 ++ t

/-- `dec(n)` for `n ≥ 0` (R14). -/
def dec (n : Nat) : Text := (digits 10 n).map (digitCode .upper)

/-- `dec(n)` for any integer, with a leading `-` when `n < 0` (R14). -/
def decInt (n : Int) : Text := if n < 0 then 0x2D :: dec n.natAbs else dec n.natAbs

/-- `hexw(n, k)`: uppercase hexadecimal, at least `k` digits (R14). -/
def hexw (n k : Nat) : Text := padZeros k ((digits 16 n).map (digitCode .upper))

/-- `binw(n, k)`: binary, at least `k` digits (R14). -/
def binw (n k : Nat) : Text := padZeros k ((digits 2 n).map (digitCode .upper))

/-- `pad03(n)`: a total width of at least 3 in which the sign counts, zeros between the sign and the digits (R14). -/
def pad03 (n : Int) : Text := if n < 0 then 0x2D :: padZeros 2 (dec n.natAbs) else padZeros 3 (dec n.natAbs)

/-- `pad02(n)`: decimal, zero-padded to 2 digits (R14). -/
def pad02 (n : Nat) : Text := padZeros 2 (dec n)

/-- `hex2(x)`: the two hexadecimal digits of a byte, high nibble first (R125). -/
def hex2 (c : HexCase) (x : Byte) : Text := [digitCode c (x.toNat / 16), digitCode c (x.toNat % 16)]

end Sys2Proof.Machine
end

