-- ==== Sys2Proof/Machine/State.lean ====
section
/-! DEFINITION. The state of the block: everything 10_state gives it, as plain data, and its value at reset (R40). -/

namespace Sys2Proof.Machine

/-- A read-only byte space, `D` or `EXT` (R42): its bytes with their offsets, 0, 1, 2, … (log 17). An offset that is not
listed has no byte. -/
abbrev Memory := List Host.Cell

/-- The kind of a pixel buffer (R30). -/
inductive Kind
  | idx | rgba
  deriving DecidableEq, Repr

/-- The content of a cell: a palette index of an `IDX` buffer, or a colour of an `RGBA` buffer (R30). Every index the
block writes has 4 bits (R57, R106). -/
inductive Pixel
  | idx (i : BitVec 4)
  | rgba (c : Rgba)
  deriving DecidableEq, Repr

/-- The pixel buffer `BUF` (R30). `cells` lists the cells that differ from the fill of the kind (R90), each under its
number `y * w + x`, numbers strictly rising (log 16). -/
structure Buf where
  kind : Kind
  w : Nat
  h : Nat
  pal : List Rgba
  cells : List (Nat × Pixel)
  deriving DecidableEq, Repr

/-- The failures of R155. -/
inductive Err
  | invalidSignature | malformedHeader | truncatedPayload | corruptLabelTable | unknownFormat
  deriving DecidableEq, Repr

/-- The refusal reasons of R158, each with what its rule passes to `refuse` (log 20). -/
inductive Reason
  | basUnlistedByte (b : Byte) (at_ : Nat)
  | wbUnlistedLead (b : Byte) (at_ : Nat)
  | wbUnlistedToken (b : Byte) (at_ : Nat)
  | stampValue
  deriving DecidableEq, Repr

/-- The values of `RES` (R26): a text, an image, a failure with its diagnostic `info` (R155), or a refusal. -/
inductive Result
  | text (t : Text)
  | image (b : Buf)
  | fail (e : Err) (info : Int)
  | unmodelled (r : Reason)
  deriving DecidableEq, Repr

/-- The Decode Configuration `CFG` (R25). -/
structure Cfg where
  container : Text
  double : Bool
  verbose : Bool
  ext : Option Memory
  deriving DecidableEq, Repr

/-- Where the palette words are read: in the payload from `base` on, or in `EXT` from offset 0 on (R78). -/
inductive PalSource
  | embedded (base : Nat)
  | external
  deriving DecidableEq, Repr

/-- Where the block stands in the algorithm of its operation, with the loop variables of that place (log 12). At
`dispatch` no invocation is in progress. -/
inductive Point
  | dispatch
  | screenHeader
  | paletteWord (src : PalSource) (i : Fin 16)
  | nibbles (a : Nat)
  | packedRgb (a : Nat)
  | group (a : Nat)
  | groupPixel (a : Nat) (k : Fin 4)
  | stampHeader
  | stampPair (i : Nat)
  | basSignature
  | basToken
  | bcd
  | wbSignature
  | prepass (p : Nat)
  | recordLength
  | labelSlot (idx : Word16)
  | lead
  | operand
  deriving DecidableEq, Repr

/-- The names of what can be unset: working registers (R40), and the loop variable of a place the block is not at. -/
inductive Reg
  | op | cur | begA | endA | w | rb | h | cap | eff | pal | buf | tbl | rend | kc | jc | grp | sw | sh | n | ext | loop
  deriving DecidableEq, Repr

/-- Why the model has no transition. No run from `dispatch` meets any of them; each is safe: the model stops where the
spec gives no rule. -/
inductive Fault
  /-- Raised by `demand`, through which every rule reads the registers that may be unset: "A model should give unset no
  value at all, so that a read of it would fault" (R40, R169; 93 A23, "stuck"; log 5 for what the table of R40 does not
  list). Safe. -/
  | unset (r : Reg)
  /-- Raised by a read of a virtual address below `BEG`: "An address below `BEG` has no translation" (R43). Safe. -/
  | belowBegin (a : Nat)
  /-- Raised by an operation that has not ended within `itemBound` items; R171 says that every invocation ends, and the
  bound is the count of its rules (log 14). Safe. -/
  | unended
  deriving DecidableEq, Repr

/-- Instructions without a meaning. Every instruction of this model has one. -/
inductive Refusal
  /-- Raised by `exec` alone, for an instruction that has no meaning yet: none. Safe. -/
  | notModelled (mnemonic : String)
  deriving DecidableEq, Repr

/-- The state of the block (R21): ports, tables, result register and working registers. A working register that is
`none` is unset (R40). -/
structure State where
  /-- `TAG` (R23). -/
  tag : Tag
  /-- `D` (R24). -/
  d : Memory
  /-- `CFG`, with `EXT` in it (R25). -/
  cfg : Cfg
  /-- The tables and parameters `P` (R38, R9). -/
  p : Params
  /-- `RES` (R26). -/
  res : Option Result
  /-- The operation in progress (R2); the model's own field (log 12). -/
  op : Option Operation
  /-- The place in its algorithm (R27 names only `cur`); the model's own field (log 12). -/
  pt : Point
  /-- `cur` (R27). -/
  cur : Option Nat
  /-- `TXT` (R31). -/
  txt : Text
  /-- `PEND` (R33). -/
  pend : Bool
  /-- `LBL` (R34). -/
  lbl : Bool
  /-- `TBL` (R35). -/
  tbl : Option Nat
  /-- `REND` (R36). -/
  rend : Option Nat
  /-- `BEG` (R28). -/
  begA : Option Word16
  /-- `END` (R28). -/
  endA : Option Word16
  /-- `W` (R28). -/
  w : Option Nat
  /-- `RB` (R28). -/
  rb : Option Nat
  /-- `H` (R28). -/
  h : Option Nat
  /-- `CAP` (R28). -/
  cap : Option Nat
  /-- `EFF` (R28). -/
  eff : Option Nat
  /-- `POFF` (R28): `none` while unset, `some none` for `NONE`. -/
  poff : Option (Option Word16)
  /-- `PAL[0..15]` (R29), each entry `none` while unset. -/
  pal : Vector (Option Rgb) 16
  /-- `BUF` (R30). -/
  buf : Option Buf
  /-- `Kc` (R37). -/
  kc : Option Int
  /-- `Jc` (R37). -/
  jc : Option Int
  /-- `g[0..3]` (R95). -/
  grp : Option (Vector Byte 4)
  /-- `SW` (R105). -/
  sw : Option Nat
  /-- `SH` (R105). -/
  sh : Option Nat
  /-- `N` (R105). -/
  n : Option Nat
  deriving DecidableEq, Repr

/-- The machine before the host has loaded anything: the working registers as R40 and R169 give them, `P` at REF
(log 3, log 4), and the ports at the values log 2 names. -/
def State.reset : State where
  tag := .other 0
  d := []
  cfg := { container := [], double := false, verbose := false, ext := none }
  p := refParams
  res := none
  op := none
  pt := .dispatch
  cur := none
  txt := []
  pend := false
  lbl := false
  tbl := none
  rend := none
  begA := none
  endA := none
  w := none
  rb := none
  h := none
  cap := none
  eff := none
  poff := none
  pal := Vector.replicate 16 none
  buf := none
  kc := none
  jc := none
  grp := none
  sw := none
  sh := none
  n := none

end Sys2Proof.Machine
end

