-- ==== Sys2Proof/Machine/Ops.lean ====
section
/-! DEFINITION. The named operations over memory, the pixel buffer, the text and the registers: 00_scope R12 and R15,
20_memory R42 to R50, 40_color_palette R81 to R84, and the taking of an exception, `raise` and `refuse` (60_exceptions
R157, R158). There is no return from an exception (R160, R161). -/

namespace Sys2Proof.Machine

/-- The three outcomes of this machine. -/
abbrev Out := Host.Outcome State Fault Refusal

/-- The value of a register that may be unset. The one place where the machine is stuck on a read: "A register read while
unset" is "stuck" (93 A23), "so that a read of it would fault; it should not pick zero" (R40). -/
def demand {α : Type} (r : Reg) (o : Option α) : Except Fault α :=
  match o with
  | some a => .ok a
  | none => .error (.unset r)

/-- Goes on with the value of a register (R40). -/
def need {α : Type} (r : Reg) (o : Option α) (k : α → Out) : Out :=
  match demand r o with
  | .ok a => k a
  | .error f => .fault f

/-! ### Arithmetic (R12) -/

/-- `a / b` of R12 for `a ≥ 0`; a divisor of 0 gives a free value (log 9). -/
def quot (a b : Nat) : Nat := if b = 0 then Config.quotientByZero a else a / b

/-- `a % b` of R12; a divisor of 0 gives a free value (log 9). -/
def rem (a b : Nat) : Nat := if b = 0 then Config.remainderByZero a else a % b

/-- `clamp(v, lo, hi)` (R12). -/
def clamp (v lo hi : Int) : Int := min (max v lo) hi

/-- `ceil(a / b)` for `b > 0` (R12). -/
def ceilDiv (a b : Nat) : Nat := (a + b - 1) / b

/-! ### Byte spaces (R42, R49) -/

/-- The bytes of a list with the offsets `off`, `off + 1`, … -/
def cellsFrom : Nat → List Byte → Memory
  | _, [] => []
  | off, b :: rest => (off, b) :: cellsFrom (off + 1) rest

/-- The byte space that holds a byte sequence from offset 0 on (R24). -/
def Memory.ofBytes (bs : List Byte) : Memory := cellsFrom 0 bs

/-- The canonical form: the offsets are 0, 1, 2, … in order, so that every offset below the length has its byte (R15). -/
abbrev Memory.wf (m : Memory) : Prop := m.map (·.1) = List.range m.length

/-- `|D|` (R15). -/
def Memory.size (m : Memory) : Nat := m.length

/-- The byte at an offset; none outside `[0, |D|)` (R49). -/
def Memory.read (m : Memory) (off : Nat) : Option Byte := m.lookup off

/-- At most `n` bytes from an offset on, as far as there are bytes. -/
def Memory.run (m : Memory) (off : Nat) : Nat → List Byte
  | 0 => []
  | n + 1 =>
    match m.read off with
    | some b => b :: m.run (off + 1) n
    | none => []

/-- The bytes from an offset to the end. -/
def Memory.tail (m : Memory) (off : Nat) : List Byte := m.run off (m.size - off)

/-- `MemRead(off, 2)`: little-endian (R15, R44). -/
def Memory.read16 (m : Memory) (off : Nat) : Option Word16 :=
  match m.read off, m.read (off + 1) with
  | some lo, some hi => some (hi ++ lo)
  | _, _ => none

/-! ### The pixel buffer (R30, R50, R90) -/

/-- The fill of each kind: index 0, or `(0, 0, 0, 0)` (R90). -/
def Kind.fill : Kind → Pixel
  | .idx => .idx 0
  | .rgba => .rgba ⟨0, 0, 0, 0⟩

/-- The content of cell number `k`: what is listed, or the fill (R90). -/
def cellAt (fill : Pixel) (cells : List (Nat × Pixel)) (k : Nat) : Pixel := (cells.lookup k).getD fill

/-- Sets cell number `k`, keeping the numbers strictly rising and listing no fill (log 16). -/
def setCell (fill : Pixel) (k : Nat) (v : Pixel) : List (Nat × Pixel) → List (Nat × Pixel)
  | [] => if v = fill then [] else [(k, v)]
  | (j, u) :: rest =>
    if k < j then (if v = fill then (j, u) :: rest else (k, v) :: (j, u) :: rest)
    else if k = j then (if v = fill then rest else (k, v) :: rest)
    else (j, u) :: setCell fill k v rest

/-- A buffer with every cell at its fill value (R90). -/
def Buf.new (kind : Kind) (w h : Nat) (pal : List Rgba) : Buf := { kind, w, h, pal, cells := [] }

/-- The cell `(x, y)`, which exists for `x < BUF.w` and `y < BUF.h` (R30). -/
def Buf.read (b : Buf) (x y : Nat) : Option Pixel :=
  if x < b.w ∧ y < b.h then some (cellAt b.kind.fill b.cells (y * b.w + x)) else none

/-- `PixWrite(x, y, v)`: a write outside the geometry changes nothing (R15, R50). -/
def Buf.write (b : Buf) (x y : Nat) (v : Pixel) : Buf :=
  if x < b.w ∧ y < b.h then { b with cells := setCell b.kind.fill (y * b.w + x) v b.cells } else b

/-- The canonical form of a cell list: numbers strictly rising and below `bound`, and no entry equal to the fill. -/
def cellsWf (fill : Pixel) (bound : Nat) (cells : List (Nat × Pixel)) : Bool :=
  decide (cells.Pairwise fun c e => c.1 < e.1) && cells.all fun c => decide (c.1 < bound ∧ c.2 ≠ fill)

/-- The canonical form of a buffer: its cells are listed in canonical form and none lies outside the geometry. -/
def Buf.wf (b : Buf) : Bool := cellsWf b.kind.fill (b.w * b.h) b.cells

/-- The block of `sx` by `sy` cells that one cell of the source becomes. -/
def blockCells (sx sy x y : Nat) : List (Nat × Nat) :=
  (List.range sy).flatMap fun dy => (List.range sx).map fun dx => (sx * x + dx, sy * y + dy)

/-- A buffer `sx` times as wide and `sy` times as high in which `B'(x', y') = B(x' / sx, y' / sy)`, the palette carried
over (R81 to R83). A cell at the fill becomes cells at the fill. -/
def Buf.scale (sx sy : Nat) (b : Buf) : Buf :=
  b.cells.foldl
    (fun acc c => (blockCells sx sy (c.1 % b.w) (c.1 / b.w)).foldl (fun acc' q => acc'.write q.1 q.2 c.2) acc)
    (Buf.new b.kind (sx * b.w) (sy * b.h) b.pal)

/-- `DoubleIdx(B)` (R81). -/
def doubleIdx (b : Buf) : Buf := b.scale 2 2

/-- `DoubleRGBA(B)`, its own routine in the source (R82). -/
def doubleRgba (b : Buf) : Buf := b.scale 2 2

/-- `RowDup(B)` (R83). -/
def rowDup (b : Buf) : Buf := b.scale 1 2

/-- The last step of an image operation: doubling when `CFG.double = 1` (R84). -/
def postDouble (double : Bool) (b : Buf) : Buf :=
  if double then
    match b.kind with
    | .idx => doubleIdx b
    | .rgba => doubleRgba b
  else b

/-! ### Text (R14, R15, R32, R140) -/

/-- `SP`, code 0x20 (R14). -/
def SP : Byte := 0x20

/-- `NL`, code 0x0A (R14). -/
def NL : Byte := 0x0A

/-- `COL`: the number of codes after the last `NL` (R32). -/
def col (t : Text) : Nat := (t.reverse.takeWhile fun c => c != NL).length

/-- `Emit(s)` (R15). -/
def State.emit (s : State) (t : Text) : State := { s with txt := s.txt ++ t }

/-- `Pad(c)` (R140). -/
def State.pad (s : State) (c : Nat) : State := s.emit (List.replicate (c - col s.txt) SP)

/-! ### Registers -/

/-- `cur <- v`. -/
def State.withCur (s : State) (v : Nat) : State := { s with cur := some v }

/-- The block goes on at a place of its algorithm. -/
def State.goto (s : State) (pt : Point) : State := { s with pt := pt }

/-- `BUF <- b`. -/
def State.withBuf (s : State) (b : Buf) : State := { s with buf := some b }

/-- The start of an invocation: "the state holds these values. Nothing else exists" (R40). The ports and `P` stay. -/
def State.fresh (s : State) : State := { State.reset with tag := s.tag, d := s.d, cfg := s.cfg, p := s.p }

/-! ### The end of an invocation (R157, R158, R170) -/

/-- `RES <- r`, which ends the invocation; the block is at `dispatch` again (R170, log 13). -/
def State.deliver (s : State) (r : Result) : State := { s with res := some r, op := none, pt := .dispatch }

/-- Taking an exception, `raise E(info)`: `RES <- Fail(E)`, `TXT` and `BUF` discarded, nothing else changed (R157). -/
def State.raise (s : State) (e : Err) (info : Int) : State :=
  { s.deliver (.fail e info) with txt := [], buf := none }

/-- `refuse U`: as `raise`, with `RES <- Unmodelled(U)` (R158). -/
def State.refuse (s : State) (u : Reason) : State :=
  { s.deliver (.unmodelled u) with txt := [], buf := none }

/-- A `MemRead` outside its space raises `TruncatedPayload` (R15, R49), with an `info` that no rule fixes (log 8). -/
def State.raiseRead (s : State) (off : Nat) : State :=
  s.raise .truncatedPayload (Config.memReadInfo s.d off)

/-- A walker ends: `RES <- Text(TXT)` (R109, R134). -/
def State.deliverText (s : State) : State := s.deliver (.text s.txt)

/-- An image operation ends: the doubling the user asked for, then `RES <- Image(BUF)` (R84, R100 to R104, R108). -/
def State.deliverImage (s : State) (b : Buf) : State :=
  let b' := postDouble s.cfg.double b
  (s.withBuf b').deliver (.image b')

/-- The numeric codes of R155. -/
def Err.code : Err → Nat
  | .invalidSignature => 1
  | .malformedHeader => 2
  | .truncatedPayload => 3
  | .corruptLabelTable => 4
  | .unknownFormat => 5

end Sys2Proof.Machine
end

