-- ==== Sys2Proof/Machine/Operands.lean ====
section
/-! DEFINITION. The operand forms: the screen geometries (41_screen R85 to R88), the intensity tables and colours
(40_color_palette R74 to R77, 41_screen R93, R95 to R97), the stamp indices (42_stamp R106), the dictionaries
(43_basic R124, 44_wbass2 R153) and the numeric literals of WBASS2 (R150). -/

namespace Sys2Proof.Machine

/-! ### Screen geometry -/

/-- The three pixel loops (R85). -/
inductive Variant
  | a | b | c
  deriving DecidableEq, Repr

/-- VAR of the geometry table (R85). -/
def variantOf : Screen → Variant
  | .sc5 => .a
  | .sc7 => .a
  | .sc8 => .b
  | .s10 => .c
  | .s12 => .c

/-- YAE of the geometry table (R85). -/
def yaeOf : Screen → Bool
  | .s10 => true
  | _ => false

/-- The buffer kind of the geometry table (R85). -/
def kindOf : Screen → Kind
  | .sc5 => .idx
  | .sc7 => .idx
  | _ => .rgba

/-- "Only SC5, SC7 and S10 call the resolver" (R78, D10). -/
def resolvesPalette : Screen → Bool
  | .sc5 => true
  | .sc7 => true
  | .s10 => true
  | _ => false

/-- `P.W(tag)` (R9). -/
def widthOf (p : Params) : Screen → Nat
  | .sc5 => p.wSc5
  | .sc7 => p.wSc7
  | .sc8 => p.wSc8
  | .s10 => p.wS10
  | .s12 => p.wS12

/-- `P.POFF(tag)`, which is `NONE` for SC8 and S12 (R9, R85). -/
def paletteOffsetOf (p : Params) : Screen → Option Word16
  | .sc5 => p.poffSc5
  | .sc7 => p.poffSc7
  | .s10 => p.poffS10
  | .sc8 => none
  | .s12 => none

/-- `RB`: `W/2` for variant A and `W` for variants B and C (R85, R86). -/
def rowBytes (v : Variant) (w : Nat) : Nat :=
  match v with
  | .a => w / 2
  | _ => w

/-- `HeightOf(END, RB)` (R87). -/
def heightOf (fin rb : Nat) : Nat := if quot fin rb ≤ 192 then 192 else 212

/-- `Phys(a) = 7 + (a − BEG)`; an address below `BEG` has no translation (R43). -/
def phys (beg a : Nat) : Option Nat := if beg ≤ a then some (7 + (a - beg)) else none

/-! ### Colours -/

/-- `I2(v)` (R74). -/
def I2 (p : Params) (v : BitVec 2) : Byte := p.i2[v.toNat]'(by have := v.isLt; omega)

/-- `I3(v)` (R75). -/
def I3 (p : Params) (v : BitVec 3) : Byte := p.i3[v.toNat]'(by have := v.isLt; omega)

/-- `I5(v)` (R76). -/
def I5 (p : Params) (v : BitVec 5) : Byte := p.i5[v.toNat]'(by have := v.isLt; omega)

/-- `PalWord(w)` of the three fields (R77). -/
def palWord (p : Params) (r g b : BitVec 3) : Rgb := ⟨I3 p r, I3 p g, I3 p b⟩

/-- A colour with alpha 255 (R30, D14). -/
def solid (c : Rgb) : Rgba := ⟨c.r, c.g, c.b, 255⟩

/-- The colour of a byte-packed pixel (R93). -/
def rgb8Colour (p : Params) (g r : BitVec 3) (b : BitVec 2) : Rgba := ⟨I3 p r, I3 p g, I2 p b, 255⟩

/-- `sext_6(v)` (R13). -/
def sext6 (v : BitVec 6) : Int := if v.toNat ≤ 31 then v.toNat else (v.toNat : Int) - 64

/-- `a[2:0] | b[2:0] << 3` (R59, R95). -/
def chromaBits (a b : Byte) : BitVec 6 := b.extractLsb' 0 3 ++ a.extractLsb' 0 3

/-- A channel clamped to 0..31 (R97). -/
def channel (v : Int) : BitVec 5 := BitVec.ofNat 5 (clamp v 0 31).toNat

/-- The blue channel before the clamp; each `/` truncates toward zero (R97, D15). -/
def blueOf (y jc kc : Int) : Int := (5 * y).tdiv 4 - jc.tdiv 2 - kc.tdiv 4

/-- The colour of a chroma-luma pixel (R97). -/
def yjkColour (p : Params) (y : BitVec 5) (jc kc : Int) : Rgba :=
  ⟨I5 p (channel (y.toNat + jc)), I5 p (channel (y.toNat + kc)), I5 p (channel (blueOf y.toNat jc kc)), 255⟩

/-- The stamp's palette: black, then white (R106, D22). -/
def stampPalette : List Rgba := [⟨0, 0, 0, 255⟩, ⟨255, 255, 255, 255⟩]

/-! ### Dictionaries and numeric literals -/

/-- `Dict(T, i)`: the entry, or the placeholder `-i-` (R124, R153). -/
def dict (t : List Text) (i : Int) : Text :=
  if 0 ≤ i ∧ i < t.length then t.getD i.toNat [] else 0x2D :: decInt i ++ [0x2D]

/-- `NumFmt(0xE1, v)` (R150). -/
def numHex (v : Word16) : Text := asc "&H" ++ hexw v.toNat (if v.toNat ≤ 256 then 2 else 4)

/-- `NumFmt(0xE2, v)` (R150). -/
def numBin (v : Word16) : Text := asc "&B" ++ binw v.toNat (if v.toNat ≤ 256 then 8 else 16)

/-- `Label(idx)`: the name in slot `idx` of the table at `tbl`, each character 7 bits wide; `none` when a byte it must
read lies outside `D` (R139). -/
def labelName (d : Memory) (tbl idx : Nat) : Option (List (BitVec 7)) := slotName 6 (d.run (tbl + 8 * idx) 6)

/-- The character codes of a label name (R139). -/
def nameText (name : List (BitVec 7)) : Text := name.map fun c => c.setWidth 8

end Sys2Proof.Machine
end

