-- ==== Sys2Proof/Machine/Flags.lean ====
section
/-! DEFINITION. The block's two flags, `PEND` and `LBL` (10_state R33, R34, R39), and every rule that writes them
(44_wbass2 R137, R138, R145 to R149, R151). -/

namespace Sys2Proof.Machine

/-- The owed space: one `SP` when `PEND = 1` (R33). -/
def State.owed (s : State) : Text := if s.pend then [SP] else []

/-- A line start clears both flags (R33, R34, R137), at every record (D61). -/
def State.clearFlags (s : State) : State := { s with pend := false, lbl := false }

/-- `LBL <- 1` (R138). -/
def State.setLbl (s : State) : State := { s with lbl := true }

/-- An operand atom: the owed space first, then its text, then `PEND <- 1` (R147 to R149, R151). -/
def State.emitAtom (s : State) (t : Text) : State := { s.emit (s.owed ++ t) with pend := true }

/-- Text that drops an owed space: `PEND <- 0` (R145, R146). -/
def State.emitDropping (s : State) (t : Text) : State := { s.emit t with pend := false }

end Sys2Proof.Machine
end

