-- ==== Sys2Proof/Machine/Control.lean ====
section
/-! DEFINITION. How each operation goes on from one item to the next: the loops of 41_screen R92, R94, R99, R100 to R104,
42_stamp R108, 43_basic R110 and 44_wbass2 R134, R138, R144, R154, and the loop variables they read. -/

namespace Sys2Proof.Machine

/-- The screen format of an operation. -/
def screenOf : Option Operation → Option Screen
  | some (.screen f) => some f
  | _ => none

/-- The screen format in progress. -/
def needScreen (s : State) (k : Screen → Out) : Out := need .op (screenOf s.op) k

/-! ### Loop variables

The variables of a loop of the pseudocode exist while the block stands in that loop; elsewhere there is none: "Nothing else
exists" (R40). -/

/-- The index `i` of the palette loop, and where its words are (R78). -/
def paletteIndexOf : Point → Option (PalSource × Fin 16)
  | .paletteWord src i => some (src, i)
  | _ => none

/-- The address `a` of the variant-A loop (R92). -/
def nibbleAddressOf : Point → Option Nat
  | .nibbles a => some a
  | _ => none

/-- The address `a` of the variant-B loop (R94). -/
def rgbAddressOf : Point → Option Nat
  | .packedRgb a => some a
  | _ => none

/-- The group address `a` of the variant-C loop (R99). -/
def groupAddressOf : Point → Option Nat
  | .group a => some a
  | _ => none

/-- The group address `a` and the pixel number `k` of the variant-C loop (R99). -/
def groupPixelOf : Point → Option (Nat × Fin 4)
  | .groupPixel a k => some (a, k)
  | _ => none

/-- The pixel number `i` of the stamp loop (R108). -/
def stampIndexOf : Point → Option Nat
  | .stampPair i => some i
  | _ => none

/-- The offset `p` of the pre-pass (R135). -/
def prepassOffsetOf : Point → Option Nat
  | .prepass p => some p
  | _ => none

/-- Goes on with the palette loop's variables. -/
def needPaletteIndex (s : State) (k : PalSource → Fin 16 → Out) : Out :=
  need .loop (paletteIndexOf s.pt) fun v => k v.1 v.2

/-- Goes on with the variant-A loop's address. -/
def needNibbleAddress (s : State) (k : Nat → Out) : Out := need .loop (nibbleAddressOf s.pt) k

/-- Goes on with the variant-B loop's address. -/
def needRgbAddress (s : State) (k : Nat → Out) : Out := need .loop (rgbAddressOf s.pt) k

/-- Goes on with the variant-C loop's group address. -/
def needGroupAddress (s : State) (k : Nat → Out) : Out := need .loop (groupAddressOf s.pt) k

/-- Goes on with the variant-C loop's group address and pixel number. -/
def needGroupPixel (s : State) (k : Nat → Fin 4 → Out) : Out :=
  need .loop (groupPixelOf s.pt) fun v => k v.1 v.2

/-- Goes on with the stamp loop's pixel number. -/
def needStampIndex (s : State) (k : Nat → Out) : Out := need .loop (stampIndexOf s.pt) k

/-- Goes on with the pre-pass offset. -/
def needPrepassOffset (s : State) (k : Nat → Out) : Out := need .loop (prepassOffsetOf s.pt) k

/-! ### Screens -/

/-- All values of a list of registers, or none while one is unset. -/
def allSet {α : Type} : List (Option α) → Option (List α)
  | [] => some []
  | none :: _ => none
  | some a :: rest => (allSet rest).map (a :: ·)

/-- The end of a screen operation: `BUF.pal` from `PAL` for SC5 and SC7, doubling, `RES <- Image(BUF)` (R100 to R104). -/
def finishScreen (s : State) : Out :=
  needScreen s fun f =>
    need .buf s.buf fun b =>
      match kindOf f with
      | .idx => need .pal (allSet s.pal.toList) fun pal => .next (s.deliverImage { b with pal := pal.map solid })
      | .rgba => .next (s.deliverImage b)

/-- The first item of the pixel loop of the format, or the end when the loop is empty (R92, R94, R99). -/
def startPixels (s : State) : Out :=
  needScreen s fun f =>
    need .begA s.begA fun beg =>
      need .eff s.eff fun eff =>
        match variantOf f with
        | .a => if beg.toNat < eff then .next (s.goto (.nibbles beg.toNat)) else finishScreen s
        | .b => if beg.toNat < eff then .next (s.goto (.packedRgb beg.toNat)) else finishScreen s
        | .c => if beg.toNat + 4 ≤ eff then .next (s.goto (.group beg.toNat)) else finishScreen s

/-- `for a in BEG, …, EFF − 1`, variant A: the address after `a` (R92). -/
def nextNibbles (s : State) (a : Nat) : Out :=
  need .eff s.eff fun eff => if a + 1 < eff then .next (s.goto (.nibbles (a + 1))) else finishScreen s

/-- `for a in BEG, …, EFF − 1`, variant B: the address after `a` (R94). -/
def nextPackedRgb (s : State) (a : Nat) : Out :=
  need .eff s.eff fun eff => if a + 1 < eff then .next (s.goto (.packedRgb (a + 1))) else finishScreen s

/-- `a <- a + 4`, and the next group while `a + 4 <= EFF` (R99). -/
def nextGroup (s : State) (a : Nat) : Out :=
  need .eff s.eff fun eff => if a + 4 + 4 ≤ eff then .next (s.goto (.group (a + 4))) else finishScreen s

/-- `for k in 0..3`: the pixel after `k`, or the next group (R99). -/
def nextGroupPixel (s : State) (a : Nat) (k : Fin 4) : Out :=
  if h : k.val + 1 < 4 then .next (s.goto (.groupPixel a ⟨k.val + 1, h⟩)) else nextGroup s a

/-! ### Stamp -/

/-- The end of the stamp operation: `RowDup`, then doubling, `RES <- Image(BUF)` (R108). -/
def finishStamp (s : State) : Out := need .buf s.buf fun b => .next (s.deliverImage (rowDup b))

/-- `for i in 0..N−1`, from `i` on (R108). -/
def stampFrom (s : State) (i : Nat) : Out :=
  need .n s.n fun n => if i < n then .next (s.goto (.stampPair i)) else finishStamp s

/-! ### BASIC -/

/-- The token loop of `Line()`: the next token, or, where the buffer ended inside the line, `NL` and the end (R110, D28). -/
def tokenLoop (s : State) : Out :=
  need .cur s.cur fun cur =>
    if cur < s.d.size then .next (s.goto .basToken) else .next (s.emit [NL]).deliverText

/-- `Line()` up to its token loop: the end of the program, or the line number (R110, D25 to D27). -/
def startLine (s : State) : Out :=
  need .cur s.cur fun cur =>
    if s.d.size - cur < 2 then .next s.deliverText
    else
      match s.d.read16 cur with
      | none => .next (s.raiseRead cur)
      | some link =>
        if link = 0 then .next s.deliverText
        else
          match s.d.read16 (cur + 2) with
          | none => .next (s.raiseRead (cur + 2))
          | some ln => tokenLoop ((s.emit (dec ln.toNat ++ [SP])).withCur (cur + 4))

/-- The end of a token of `len` bytes that emits `t` (R113 to R122). -/
def emitToken (s : State) (t : Text) (len : Nat) : Out :=
  need .cur s.cur fun cur => tokenLoop ((s.emit t).withCur (cur + len))

/-! ### WBASS2 -/

/-- Every line record that completes ends with one `NL` (R138, R154). -/
def endRecord (s : State) : State := (s.emit [NL]).goto .recordLength

/-- `Scan()`: the next operand while `cur < REND`, else the end of the record (R144). -/
def scanLoop (s : State) : Out :=
  need .cur s.cur fun cur =>
    need .rend s.rend fun rend => .next (if cur < rend then s.goto .operand else endRecord s)

/-- A one-byte or fixed-length operand ends: `cur` moves on and the scan goes on (R146, R148, R149, R151). -/
def scanFrom (s : State) (len : Nat) : Out :=
  need .cur s.cur fun cur => scanLoop (s.withCur (cur + len))

/-- An item that uses up its record: `cur <- REND` (R141, R145). -/
def endAtRend (s : State) : Out :=
  need .rend s.rend fun rend => .next (endRecord (s.withCur rend))

end Sys2Proof.Machine
end

