-- ==== Sys2Proof/Machine/Bcd.lean ====
section
/-! DEFINITION. The BCD float formatter: 43_basic R125 to R133. -/

namespace Sys2Proof.Machine

/-- The text without its trailing "0"s (R126). -/
def dropZeros (t : Text) : Text := (t.reverse.dropWhile fun c => c == 0x30).reverse

/-- `Trim(s)`: the trailing "0"s go, then a "." that is now last (R126). -/
def trim (t : Text) : Text :=
  if (dropZeros t).getLast? = some 0x2E then (dropZeros t).dropLast else dropZeros t

/-- `Fix(M, e)` for `0 ≤ e ≤ 14` (R130). -/
def fix (m : Text) (e : Nat) : Text :=
  if e ≤ 6 then trim (m.take e ++ [0x2E] ++ m.drop e)
  else m ++ List.replicate (e - 6) 0x30 ++ [0x21]

/-- `M[0..1) ++ "." ++ M[1..6)` (R128, R131). -/
def scientific (m : Text) : Text := m.take 1 ++ [0x2E] ++ m.drop 1

/-- `P.POSEXP_ADJ` as a number (R9). -/
def posExpAdjOf : PosExpAdj → Int
  | .zero => 0
  | .minusOne => -1

/-- The exponent `e = (f0 & 0x7F) − 64` (R64, R125). -/
def bcdExponent (f0 : Byte) : Int := ((f0.extractLsb' 0 7).toNat : Int) - 64

/-- The mantissa `M = hex2(f1) ++ hex2(f2) ++ hex2(f3)` (R64, R125). -/
def bcdMantissa (c : HexCase) (f1 f2 f3 : Byte) : Text := hex2 c f1 ++ hex2 c f2 ++ hex2 c f3

/-- The sign text, from bit 7 of `f0` (R133). -/
def bcdSign (f0 : Byte) : Text := if f0.getLsbD 7 then [0x2D] else []

/-- `BCD(f0, f1, f2, f3)` (R125). -/
def bcdText (p : Params) (f0 f1 f2 f3 : Byte) : Text :=
  let e := bcdExponent f0
  let m := bcdMantissa p.hexCase f1 f2 f3
  let sg := bcdSign f0
  if e = -64 then asc "0!"
  else if -63 ≤ e ∧ e ≤ -3 then sg ++ scientific m ++ asc "E" ++ pad03 (e - 1)
  else if e = -1 then sg ++ trim (asc ".0" ++ m)
  else if 0 ≤ e ∧ e ≤ 14 then sg ++ fix m e.toNat
  else if 15 ≤ e ∧ e ≤ 63 then sg ++ scientific m ++ asc "E+" ++ pad02 (e + posExpAdjOf p.posExpAdj).toNat
  else asc "XXX"

end Sys2Proof.Machine
end

