-- ==== Sys2Proof/Machine/Basic.lean ====
section
/-! DEFINITION. The items of the tokenized-BASIC walker: 43_basic R109 to R124. -/

namespace Sys2Proof.Machine

/-- BAS.FILE: the signature stands, `cur <- 1`, and the first line begins (R109). -/
def execBasFile (s : State) : Out := startLine (s.withCur 1)

/-- BAS.EOL: `NL`, the zero byte is consumed, and the next line begins (R110). -/
def execBasEol (s : State) : Out :=
  need .cur s.cur fun cur => startLine ((s.emit [NL]).withCur (cur + 1))

/-- BAS.INT2: 0x0E and 0x1C print the same way (R113). -/
def execBasInt2 (_const : Bool) (v : Word16) (s : State) : Out := emitToken s (dec v.toNat) 3

/-- BAS.INT1 (R114). -/
def execBasInt1 (v : Byte) (s : State) : Out := emitToken s (dec v.toNat) 2

/-- BAS.FLT4 (R115). -/
def execBasFlt4 (f0 f1 f2 f3 : Byte) (s : State) : Out := emitToken s (bcdText s.p f0 f1 f2 f3) 5

/-- BAS.COLREM: `3A 8F` is consumed and nothing is emitted (R116). -/
def execBasColrem (s : State) : Out := emitToken s [] 2

/-- BAS.COLELSE: the colon alone is consumed and nothing is emitted (R117). -/
def execBasColelse (s : State) : Out := emitToken s [] 1

/-- BAS.EXT (R118). -/
def execBasExt (e : Byte) (s : State) : Out := emitToken s (dict s.p.basExt ((e.toNat : Int) - 0x81)) 2

/-- BAS.PRIM (R119). -/
def execBasPrim (b : Byte) (s : State) : Out := emitToken s (dict s.p.basPrim ((b.toNat : Int) - 0x81)) 1

/-- BAS.STR: the quotes and the bytes between them are copied raw (R120). -/
def execBasStr (body : List Byte) (closed : Bool) (s : State) : Out :=
  let t := 0x22 :: quotedBytes body closed
  emitToken s t t.length

/-- BAS.CHR (R121). -/
def execBasChr (b : Byte) (s : State) : Out := emitToken s [b] 1

/-- BAS.DIG (R122). -/
def execBasDig (d : BitVec 4) (s : State) : Out := emitToken s (dec d.toNat) 1

/-- BAS.UNL: `P.BAS_UNLISTED`, by default the refusal `BasUnlistedByte(b, cur)` (R123, D34). -/
def execBasUnl (b : Byte) (s : State) : Out :=
  match s.p.basUnlisted with
  | .refuse => need .cur s.cur fun cur => .next (s.refuse (.basUnlistedByte b cur))
  | .emit t => emitToken s t 1

/-- BAS.BCD: the four bytes of a float at `cur`, formatted (R125; log 18). -/
def execBasBcd (f0 f1 f2 f3 : Byte) (s : State) : Out := emitToken s (bcdText s.p f0 f1 f2 f3) 4

end Sys2Proof.Machine
end

