-- ==== Sys2Proof/Machine/Palette.lean ====
section
/-! DEFINITION. The palette resolver and its word: 40_color_palette R77 to R80. -/

namespace Sys2Proof.Machine

/-- Branches (2) and (3) of `PalResolve`: the external palette, else the built-in default (R78, D9). -/
def palFallback (s : State) : Out :=
  match s.cfg.ext with
  | some e =>
    if e.size < 32 then .next (s.raise .truncatedPayload e.size)
    else .next (s.goto (.paletteWord .external 0))
  | none => startPixels { s with pal := s.p.defpal.map some }

/-- `PalResolve(tag)`: `POFF`, then the source of the palette in its order of precedence (R78, D7, D8). -/
def palResolve (s : State) : Out :=
  needScreen s fun f =>
    need .begA s.begA fun beg =>
      need .endA s.endA fun fin =>
        let s1 := { s with poff := some (paletteOffsetOf s.p f) }
        match paletteOffsetOf s.p f with
        | none => palFallback s1
        | some po =>
          if po.toNat ≤ fin.toNat then
            match phys beg.toNat po.toNat with
            | none => .next (s1.raise .truncatedPayload po.toNat)
            | some base =>
              if s.d.size < base + 32 then .next (s1.raise .truncatedPayload base)
              else .next (s1.goto (.paletteWord (.embedded base) 0))
          else palFallback s1

/-- PALWORD: `PAL[i] <- PalWord(w)`, for `i` in 0..15, and then the pixel loop (R77, R78). -/
def execPalword (r g b : BitVec 3) (s : State) : Out :=
  needPaletteIndex s fun src i =>
    let s1 := { s with pal := s.pal.set i (some (palWord s.p r g b)) }
    if h : i.val + 1 < 16 then .next (s1.goto (.paletteWord src ⟨i.val + 1, h⟩)) else startPixels s1

end Sys2Proof.Machine
end

