-- ==== Sys2Proof/Machine/Screen.lean ====
section
/-! DEFINITION. The items of the screen decoders: 41_screen R86 to R99. -/

namespace Sys2Proof.Machine

/-- SCRHDR, the common preamble `ScrPre` with `TruncCheck` (R86 to R90), which writes `POFF` too (R28, R40; log 15); then
the resolver where the format has one (R175). DESIGN CHOICE (log 27): the new buffer's palette is the empty list until the end
of the pixel loop assigns it (R100, R101); no rule says what `BUF.pal` holds until then. -/
def execScrhdr (beg fin : Word16) (s : State) : Out :=
  needScreen s fun f =>
    let s1 := { s with begA := some beg, endA := some fin }
    if fin.toNat < beg.toNat then .next (s1.raise .malformedHeader beg.toNat)
    else
      let w := widthOf s.p f
      let rb := rowBytes (variantOf f) w
      let h := heightOf fin.toNat rb
      let cap := rb * h
      let eff := min fin.toNat cap
      let s2 := { s1 with w := some w, rb := some rb, h := some h, cap := some cap, eff := some eff }
      if beg.toNat < eff ∧ s.d.size < 7 + (eff - beg.toNat) then .next (s2.raise .truncatedPayload eff)
      else
        let s3 := { s2 with poff := some (paletteOffsetOf s.p f), buf := some (Buf.new (kindOf f) w h []) }
        if resolvesPalette f then palResolve s3 else startPixels s3

/-- NIB: two palette indices, high nibble first (R91). -/
def execNib (hi lo : BitVec 4) (s : State) : Out :=
  needNibbleAddress s fun a =>
    need .rb s.rb fun rb =>
      need .buf s.buf fun b =>
        let x := rem a rb
        let y := quot a rb
        nextNibbles (s.withBuf ((b.write (2 * x) y (.idx hi)).write (2 * x + 1) y (.idx lo))) a

/-- RGB8: one opaque colour (R93). -/
def execRgb8 (g r : BitVec 3) (b : BitVec 2) (s : State) : Out :=
  needRgbAddress s fun a =>
    need .w s.w fun w =>
      need .buf s.buf fun buf =>
        nextPackedRgb (s.withBuf (buf.write (rem a w) (quot a w) (.rgba (rgb8Colour s.p g r b)))) a

/-- YJKGRP, `Chroma(a)`: the group's bytes, and `Kc` and `Jc` once for its four pixels (R95). -/
def execYjkgrp (g0 g1 g2 g3 : Byte) (s : State) : Out :=
  needGroupAddress s fun a =>
    .next
      ({ s with
          grp := some #v[g0, g1, g2, g3]
          kc := some (sext6 (chromaBits g0 g1))
          jc := some (sext6 (chromaBits g2 g3)) }.goto (.groupPixel a 0))

/-- Pixel `k` of the group at `a` goes to `((a+k) % W, (a+k) / W)` (R96, R97, D17). -/
def drawGroupPixel (s : State) (c : Rgba) : Out :=
  needGroupPixel s fun a k =>
    need .w s.w fun w =>
      need .buf s.buf fun b =>
        nextGroupPixel (s.withBuf (b.write (rem (a + k.val) w) (quot (a + k.val) w) (.rgba c))) a k

/-- YAE: `PAL[Y >> 1]`, alpha 255 (R96). -/
def execYae (idx : BitVec 4) (s : State) : Out :=
  need .pal (s.pal[idx.toNat]'(by have := idx.isLt; omega)) fun c => drawGroupPixel s (solid c)

/-- YJK: the colour reconstructed from luma and chroma (R97). -/
def execYjk (y : BitVec 5) (s : State) : Out :=
  need .jc s.jc fun jc => need .kc s.kc fun kc => drawGroupPixel s (yjkColour s.p y jc kc)

end Sys2Proof.Machine
end

