-- ==== Sys2Proof/Machine/Stamp.lean ====
section
/-! DEFINITION. The items of the stamp unpacker: 42_stamp R105 to R108. -/

namespace Sys2Proof.Machine

/-- STPHDR, `StpHdr` and the new buffer (R105, R106, R108). -/
def execStphdr (sw sh : Word16) (s : State) : Out :=
  let n := sw.toNat * sh.toNat
  let s1 := { s with sw := some sw.toNat, sh := some sh.toNat, n := some n }
  if s.d.size < 4 + ceilDiv n 4 then .next (s1.raise .truncatedPayload n)
  else stampFrom (s1.withBuf (Buf.new .idx sw.toNat sh.toNat stampPalette)) 0

/-- `PixWrite(i % SW, i / SW, index)`, and the pixel after `i` (R107, R108). -/
def drawStamp (index : BitVec 4) (s : State) : Out :=
  needStampIndex s fun i =>
    need .sw s.sw fun sw =>
      need .buf s.buf fun b => stampFrom (s.withBuf (b.write (rem i sw) (quot i sw) (.idx index))) (i + 1)

/-- STP0: value 0 selects index 1, white (R106, R107). -/
def execStp0 (s : State) : Out := drawStamp 1 s

/-- STP1: value 1 selects index 0, black (R106, R107). -/
def execStp1 (s : State) : Out := drawStamp 0 s

/-- STPHI: values 2 and 3 apply `P.STAMP_HIGH`, by default the refusal `StampValue` (R107, D20). -/
def execStphi (low : BitVec 1) (s : State) : Out :=
  match s.p.stampHigh with
  | .refuse => .next (s.refuse .stampValue)
  | .draw two three => drawStamp ((if low = 0 then two else three).setWidth 4) s

end Sys2Proof.Machine
end

