-- ==== Sys2Proof/Machine/Wbass.lean ====
section
/-! DEFINITION. The items of the WBASS2 walker: 44_wbass2 R134 to R154. -/

namespace Sys2Proof.Machine

/-- WB.FILE: the signature stands and the pre-pass begins at offset 1 (R134, R135). DESIGN CHOICE (log 29): the offset is the
loop variable `p` of R135, and `cur` stays as it is until R134 sets it, although R27 and R40 name `cur` for the pre-pass. -/
def execWbFile (s : State) : Out := .next (s.goto (.prepass 1))

/-- WB.PREPASS: 0xFF fixes `TBL` and the main pass begins at offset 1; any other length byte is skipped with the bytes
it declares (R134, R135). DESIGN CHOICE (log 29): the walk moves `p`, as R135 writes it, and not the `cur` of R27; `cur` is
set at the end alone (`cur <- 1`, R134). -/
def execWbPrepass (l : Byte) (s : State) : Out :=
  needPrepassOffset s fun p =>
    if l = 0xFF then .next ({ s with tbl := some (p + 1), cur := some 1 }.goto .recordLength)
    else .next (s.goto (.prepass (p + 1 + (l.extractLsb' 0 7).toNat)))

/-- WB.END: the main pass stops, and the text is the result (R134). -/
def execWbEnd (s : State) : Out := .next s.deliverText

/-- WB.BLANK: an empty line (R136), both flags cleared as at every record (D61; "A line start clears it", R33, R34). DEDUCED
(log 28): the "Flags: none" of R136 is what `BlankLine` itself writes beside that. -/
def execWbBlank (s : State) : Out :=
  need .cur s.cur fun cur => .next (endRecord (s.clearFlags.withCur (cur + 1)))

/-- The start of `Record(L)`: `cur` past the length byte, the flags cleared, `REND` set (R134, R137, R138). -/
def openRecord (s : State) (cur : Nat) (l : BitVec 7) : State :=
  { s.clearFlags with cur := some (cur + 1), rend := some (cur + 1 + l.toNat) }

/-- WB.REC: a record without label; its lead byte follows (R138). -/
def execWbRec (l : BitVec 7) (s : State) : Out :=
  need .cur s.cur fun cur => .next ((openRecord s cur l).goto .lead)

/-- WB.LREC: the label index, the label with its colon, and the lead byte, or the end of a label-only line (R138, R139). -/
def execWbLrec (l : BitVec 7) (s : State) : Out :=
  need .cur s.cur fun cur =>
    let at_ := cur + 1
    let s1 := openRecord s cur l
    if l.toNat < 2 then .next (s1.raise .truncatedPayload at_)
    else
      match s.d.read16 at_ with
      | none => .next (s1.raiseRead at_)
      | some idx =>
        let s2 := s1.withCur (at_ + 2)
        need .tbl s.tbl fun tbl =>
          match labelName s.d tbl idx.toNat with
          | none => .next (s2.raiseRead (tbl + 8 * idx.toNat))
          | some name =>
            let s3 := (s2.emit (nameText name ++ [0x3A])).setLbl
            if l.toNat - 2 = 0 then .next (endRecord s3) else .next (s3.goto .lead)

/-- WB.SLOT: the name of the slot is emitted where the scan stands (R139; log 18). -/
def execWbSlot (name : List (BitVec 7)) (s : State) : Out := scanLoop (s.emit (nameText name))

/-- WB.LCMT (R141). -/
def execWbLcmt (text : List Byte) (s : State) : Out :=
  let s1 := if s.lbl then s.pad 8 else s
  endAtRend (s1.emit (0x3B :: text))

/-- WB.LMN: the mnemonic at column 8, and column 14 where bytes remain after it (R142, D50). -/
def execWbLmn (m : BitVec 7) (s : State) : Out :=
  need .cur s.cur fun cur =>
    need .rend s.rend fun rend =>
      let s1 := ((s.pad 8).emit (dict s.p.wbMnem m.toNat)).withCur (cur + 1)
      scanLoop (if 0 < rend - (cur + 1) then s1.pad 14 else s1)

/-- WB.LUNL: `P.WB_UNLISTED`, by default the refusal `WbUnlistedLead(lead, cur)` (R143, D52; log 10). -/
def execWbLunl (b : Byte) (s : State) : Out :=
  match s.p.wbUnlisted with
  | .refuse => need .cur s.cur fun cur => .next (s.refuse (.wbUnlistedLead b cur))
  | .emit t => endAtRend (s.emit t)

/-- WB.CMT: column 30, or one space past it; the owed space is dropped (R145, D51). -/
def execWbCmt (text : List Byte) (s : State) : Out :=
  let s1 := if col s.txt < 30 then s.pad 30 else s.emit [SP]
  endAtRend (s1.emitDropping (0x3B :: text))

/-- WB.OP: no space before it, and the owed one is dropped (R146). -/
def execWbOp (b : Byte) (s : State) : Out :=
  scanFrom (s.emitDropping (dict s.p.wbOp (((b.toNat / 2 : Nat) : Int) - 1))) 1

/-- WB.STR: the quotes and the bytes between them are copied (R147, D57). -/
def execWbStr (body : List Byte) (closed : Bool) (s : State) : Out :=
  let t := 0x22 :: quotedBytes body closed
  scanFrom (s.emitAtom t) t.length

/-- WB.LREF: the label's name without a colon (R148, D56). -/
def execWbLref (idx : Word16) (s : State) : Out :=
  need .tbl s.tbl fun tbl =>
    match labelName s.d tbl idx.toNat with
    | none => .next (s.raiseRead (tbl + 8 * idx.toNat))
    | some name => scanFrom (s.emitAtom (nameText name)) 3

/-- WB.NUMD: decimal (R149, R150). -/
def execWbNumd (v : Word16) (s : State) : Out := scanFrom (s.emitAtom (dec v.toNat)) 3

/-- WB.NUMH: hexadecimal (R149, R150). -/
def execWbNumh (v : Word16) (s : State) : Out := scanFrom (s.emitAtom (numHex v)) 3

/-- WB.NUMB: binary (R149, R150). -/
def execWbNumb (v : Word16) (s : State) : Out := scanFrom (s.emitAtom (numBin v)) 3

/-- WB.LOGIC: index `b − 153` (R151). -/
def execWbLogic (b : Byte) (s : State) : Out :=
  scanFrom (s.emitAtom (dict s.p.wbLogic ((b.toNat : Int) - 153))) 1

/-- WB.COND: index `b − 144` (R151). -/
def execWbCond (b : Byte) (s : State) : Out :=
  scanFrom (s.emitAtom (dict s.p.wbCond ((b.toNat : Int) - 144))) 1

/-- WB.REG: index `b − 128` (R151). -/
def execWbReg (r : BitVec 4) (s : State) : Out := scanFrom (s.emitAtom (dict s.p.wbReg r.toNat)) 1

/-- WB.TUNL: `P.WB_UNLISTED`, by default the refusal `WbUnlistedToken(b, cur)` (R152, D53; log 10). -/
def execWbTunl (b : Byte) (s : State) : Out :=
  match s.p.wbUnlisted with
  | .refuse => need .cur s.cur fun cur => .next (s.refuse (.wbUnlistedToken b cur))
  | .emit t => scanFrom (s.emit t) 1

end Sys2Proof.Machine
end

