-- ==== Sys2Proof/Machine/Items.lean ====
section
/-! DEFINITION. Reading the next item of an operation and running it: the read forms of 00_scope R18, the failures of an
item that is not there (60_exceptions R155), and the run of an operation from item to item (R52, R171, R177). -/

namespace Sys2Proof.Machine

/-- Where the algorithm of an operation begins (R86, R105, R109, R134). -/
def entryPoint : Operation → Point
  | .screen _ => .screenHeader
  | .bas => .basSignature
  | .wb2 => .wbSignature
  | .stp => .stampHeader

/-- The state in which an operation begins: everything fresh (R40, R169), and the algorithm of the operation (R2). -/
def State.enter (s : State) (o : Operation) : State := { s.fresh with op := some o, pt := entryPoint o }

/-- The bytes at virtual address `a`, where it has a translation (R43). -/
def screenBytes (s : State) (a n : Nat) : Except Fault (List Byte) :=
  (demand .begA s.begA).bind fun beg =>
    match phys beg.toNat a with
    | none => .error (.belowBegin a)
    | some off => .ok (s.d.run off n)

/-- The bytes of the current record from `cur` on (R36, R138, R144). -/
def recordBytes (s : State) : Except Fault (List Byte) :=
  (demand .cur s.cur).bind fun cur => (demand .rend s.rend).map fun rend => s.d.run cur (rend - cur)

/-- `(byte >> (6 − 2*(i % 4))) & 3` (R107). -/
def stampPairBits (i : Nat) (b : Byte) : Byte := (b >>> (6 - 2 * (i % 4))) &&& 3

/-- Whether the operation in progress has the YAE escape (R85, R99). -/
def escapes (s : State) : Bool :=
  match s.op with
  | some (.screen f) => yaeOf f
  | _ => false

/-- The bytes that stand where the block reads next, cut to the item's place (R18). -/
def nextBytes (s : State) : Except Fault (List Byte) :=
  match s.pt with
  | .dispatch => .ok []
  | .screenHeader => .ok (s.d.run 0 7)
  | .paletteWord (.embedded base) i => .ok (s.d.run (base + 2 * i.val) 2)
  | .paletteWord .external i => (demand .ext s.cfg.ext).map fun e => e.run (2 * i.val) 2
  | .nibbles a => screenBytes s a 1
  | .packedRgb a => screenBytes s a 1
  | .group a => screenBytes s a 4
  | .groupPixel _ k => (demand .grp s.grp).map fun g => [g[k.val]]
  | .stampHeader => .ok (s.d.run 0 4)
  | .stampPair i => .ok ((s.d.run (4 + i / 4) 1).map (stampPairBits i))
  | .basSignature => .ok (s.d.run 0 1)
  | .basToken => (demand .cur s.cur).map fun cur => s.d.tail cur
  | .bcd => (demand .cur s.cur).map fun cur => s.d.run cur 4
  | .wbSignature => .ok (s.d.run 0 1)
  | .prepass p => .ok (s.d.run p 1)
  | .recordLength => (demand .cur s.cur).map fun cur => s.d.run cur 1
  | .labelSlot idx => (demand .tbl s.tbl).map fun tbl => s.d.run (tbl + 8 * idx.toNat) 6
  | .lead => recordBytes s
  | .operand => recordBytes s

/-- The encoding place at which the block stands (R55 to R69). -/
def placeOf (s : State) : Place :=
  match s.pt with
  | .dispatch => .operation s.tag
  | .screenHeader => .screenHeader
  | .paletteWord _ _ => .paletteWord
  | .nibbles _ => .nibbles
  | .packedRgb _ => .packedRgb
  | .group _ => .group
  | .groupPixel _ _ => .groupPixel (escapes s)
  | .stampHeader => .stampHeader
  | .stampPair _ => .stampPair
  | .basSignature => .basSignature
  | .basToken => .basToken
  | .bcd => .bcd
  | .wbSignature => .wbSignature
  | .prepass _ => .prepassLength
  | .recordLength => .recordLength
  | .labelSlot _ => .labelSlot
  | .lead => .lead
  | .operand => .operand

/-- The failure that a rejected item is (R155): a short header (R86, R105, D24), a wrong sentinel (R109, R134), a pre-pass
that leaves `D` (R135), an operand that leaves its record (R148, R149, D58: `info` is `cur`), and otherwise a `MemRead`
that leaves `D` (R49, D27, D29). -/
def takeReject (s : State) (r : Reject) : State :=
  match r with
  | .shortHeader => s.raise .malformedHeader s.d.size
  | .badSignature b => s.raise .invalidSignature b.toNat
  | .noLengthByte =>
    match s.pt with
    | .prepass p => s.raise .corruptLabelTable p
    | _ => s.raise .corruptLabelTable s.d.size
  | .truncated =>
    match s.pt, s.cur with
    | .operand, some cur => s.raise .truncatedPayload cur
    | _, cur => s.raiseRead (cur.getD 0)

/-- Reads the next item, decodes it and runs it with the given meanings; an item that does not decode fails (R155). -/
def takeItem (run : Instr → State → Out) (s : State) : Out :=
  match nextBytes s with
  | .error f => .fault f
  | .ok bs =>
    match decode (placeOf s) bs with
    | .ok r => run r.1 s
    | .error e => .next (takeReject s e)

/-- The meanings of the items. An operation is no item: no place but `TAG` spells one (R55). Where one is met all the same,
it begins (R169), and the items that follow are its own. -/
def runItem (i : Instr) (s : State) : Out :=
  match i with
  | .sc5 => .next (s.enter (.screen .sc5))
  | .sc7 => .next (s.enter (.screen .sc7))
  | .sc8 => .next (s.enter (.screen .sc8))
  | .s10 => .next (s.enter (.screen .s10))
  | .s12 => .next (s.enter (.screen .s12))
  | .bas => .next (s.enter .bas)
  | .wb2 => .next (s.enter .wb2)
  | .stp => .next (s.enter .stp)
  | .unknown n => .next (s.fresh.raise .unknownFormat n)
  | .palword r g b => execPalword r g b s
  | .nib hi lo => execNib hi lo s
  | .rgb8 g r b => execRgb8 g r b s
  | .yjkgrp g0 g1 g2 g3 => execYjkgrp g0 g1 g2 g3 s
  | .yae idx => execYae idx s
  | .yjk y => execYjk y s
  | .stphdr sw sh => execStphdr sw sh s
  | .stp0 => execStp0 s
  | .stp1 => execStp1 s
  | .stphi low => execStphi low s
  | .scrhdr beg fin => execScrhdr beg fin s
  | .basEol => execBasEol s
  | .basInt2 const v => execBasInt2 const v s
  | .basInt1 v => execBasInt1 v s
  | .basFlt4 f0 f1 f2 f3 => execBasFlt4 f0 f1 f2 f3 s
  | .basColrem => execBasColrem s
  | .basColelse => execBasColelse s
  | .basExt e => execBasExt e s
  | .basPrim b => execBasPrim b s
  | .basStr body closed => execBasStr body closed s
  | .basChr b => execBasChr b s
  | .basDig d => execBasDig d s
  | .basUnl b => execBasUnl b s
  | .basBcd f0 f1 f2 f3 => execBasBcd f0 f1 f2 f3 s
  | .basFile => execBasFile s
  | .wbFile => execWbFile s
  | .wbPrepass l => execWbPrepass l s
  | .wbEnd => execWbEnd s
  | .wbBlank => execWbBlank s
  | .wbRec l => execWbRec l s
  | .wbLrec l => execWbLrec l s
  | .wbSlot name => execWbSlot name s
  | .wbLcmt text => execWbLcmt text s
  | .wbLmn m => execWbLmn m s
  | .wbLunl b => execWbLunl b s
  | .wbCmt text => execWbCmt text s
  | .wbOp b => execWbOp b s
  | .wbStr body closed => execWbStr body closed s
  | .wbLref idx => execWbLref idx s
  | .wbNumd v => execWbNumd v s
  | .wbNumh v => execWbNumh v s
  | .wbNumb v => execWbNumb v s
  | .wbLogic b => execWbLogic b s
  | .wbCond b => execWbCond b s
  | .wbReg r => execWbReg r s
  | .wbTunl b => execWbTunl b s

/-- Runs items until the invocation ends, at most `n` of them (R171). -/
def runItems : Nat → State → Out
  | 0, s => if s.pt = .dispatch then .next s else .fault .unended
  | n + 1, s =>
    if s.pt = .dispatch then .next s
    else
      match takeItem runItem s with
      | .next t => runItems n t
      | .fault f => .fault f
      | .refused r => .refused r

end Sys2Proof.Machine
end

