-- ==== Sys2Proof/Machine/Operations.lean ====
section
/-! DEFINITION. The nine operations: 00_scope R2, 41_screen R100 to R104, 42_stamp R108, 43_basic R109, 44_wbass2 R134,
60_exceptions R156. Each runs from the start of an invocation to `RES` as one atomic transaction (R177; log 1). -/

namespace Sys2Proof.Machine

/-- More items than any invocation has (R171): a screen has a header, 16 palette words and at most two items for each of
its 65535 addresses; a stamp at most 4 pixels for each byte of `D`; a walker, the pre-pass included, at most two items
for each byte of `D` (log 14). -/
def itemBound (s : State) : Nat := 0x40000 + 4 * s.d.size

/-- One whole invocation of an operation (R177). -/
def runOperation (o : Operation) (s : State) : Out := runItems (itemBound s) (s.enter o)

/-- SC5 (R100). -/
def execSc5 (s : State) : Out := runOperation (.screen .sc5) s

/-- SC7 (R101). -/
def execSc7 (s : State) : Out := runOperation (.screen .sc7) s

/-- SC8 (R102). -/
def execSc8 (s : State) : Out := runOperation (.screen .sc8) s

/-- S10 (R103). -/
def execS10 (s : State) : Out := runOperation (.screen .s10) s

/-- S12 (R104). -/
def execS12 (s : State) : Out := runOperation (.screen .s12) s

/-- BAS (R109). -/
def execBas (s : State) : Out := runOperation .bas s

/-- WB2 (R134). -/
def execWb2 (s : State) : Out := runOperation .wb2 s

/-- STP (R108). -/
def execStp (s : State) : Out := runOperation .stp s

/-- UNKNOWN: `raise UnknownFormat(TAG)` before any byte of `D` is read (R156). -/
def execUnknown (n : Nat) (s : State) : Out := .next (s.fresh.raise .unknownFormat n)

end Sys2Proof.Machine
end

