-- ==== Sys2Proof/Machine/Dispatch.lean ====
section
/-! DEFINITION. The instruction set: one arm for each constructor of `Instr`. -/

namespace Sys2Proof.Machine

/-- The meaning of an instruction in a state. -/
def exec (i : Instr) (s : State) : Host.Outcome State Fault Refusal :=
  match i with
  | .sc5 => Sys2Proof.Machine.execSc5 s
  | .sc7 => Sys2Proof.Machine.execSc7 s
  | .sc8 => Sys2Proof.Machine.execSc8 s
  | .s10 => Sys2Proof.Machine.execS10 s
  | .s12 => Sys2Proof.Machine.execS12 s
  | .bas => Sys2Proof.Machine.execBas s
  | .wb2 => Sys2Proof.Machine.execWb2 s
  | .stp => Sys2Proof.Machine.execStp s
  | .unknown n => Sys2Proof.Machine.execUnknown n s
  | .palword r g b => Sys2Proof.Machine.execPalword r g b s
  | .nib hi lo => Sys2Proof.Machine.execNib hi lo s
  | .rgb8 g r b => Sys2Proof.Machine.execRgb8 g r b s
  | .yjkgrp g0 g1 g2 g3 => Sys2Proof.Machine.execYjkgrp g0 g1 g2 g3 s
  | .yae idx => Sys2Proof.Machine.execYae idx s
  | .yjk y => Sys2Proof.Machine.execYjk y s
  | .stphdr sw sh => Sys2Proof.Machine.execStphdr sw sh s
  | .stp0 => Sys2Proof.Machine.execStp0 s
  | .stp1 => Sys2Proof.Machine.execStp1 s
  | .stphi low => Sys2Proof.Machine.execStphi low s
  | .scrhdr beg fin => Sys2Proof.Machine.execScrhdr beg fin s
  | .basEol => Sys2Proof.Machine.execBasEol s
  | .basInt2 const v => Sys2Proof.Machine.execBasInt2 const v s
  | .basInt1 v => Sys2Proof.Machine.execBasInt1 v s
  | .basFlt4 f0 f1 f2 f3 => Sys2Proof.Machine.execBasFlt4 f0 f1 f2 f3 s
  | .basColrem => Sys2Proof.Machine.execBasColrem s
  | .basColelse => Sys2Proof.Machine.execBasColelse s
  | .basExt e => Sys2Proof.Machine.execBasExt e s
  | .basPrim b => Sys2Proof.Machine.execBasPrim b s
  | .basStr body closed => Sys2Proof.Machine.execBasStr body closed s
  | .basChr b => Sys2Proof.Machine.execBasChr b s
  | .basDig d => Sys2Proof.Machine.execBasDig d s
  | .basUnl b => Sys2Proof.Machine.execBasUnl b s
  | .basBcd f0 f1 f2 f3 => Sys2Proof.Machine.execBasBcd f0 f1 f2 f3 s
  | .basFile => Sys2Proof.Machine.execBasFile s
  | .wbFile => Sys2Proof.Machine.execWbFile s
  | .wbPrepass l => Sys2Proof.Machine.execWbPrepass l s
  | .wbEnd => Sys2Proof.Machine.execWbEnd s
  | .wbBlank => Sys2Proof.Machine.execWbBlank s
  | .wbRec l => Sys2Proof.Machine.execWbRec l s
  | .wbLrec l => Sys2Proof.Machine.execWbLrec l s
  | .wbSlot name => Sys2Proof.Machine.execWbSlot name s
  | .wbLcmt text => Sys2Proof.Machine.execWbLcmt text s
  | .wbLmn m => Sys2Proof.Machine.execWbLmn m s
  | .wbLunl b => Sys2Proof.Machine.execWbLunl b s
  | .wbCmt text => Sys2Proof.Machine.execWbCmt text s
  | .wbOp b => Sys2Proof.Machine.execWbOp b s
  | .wbStr body closed => Sys2Proof.Machine.execWbStr body closed s
  | .wbLref idx => Sys2Proof.Machine.execWbLref idx s
  | .wbNumd v => Sys2Proof.Machine.execWbNumd v s
  | .wbNumh v => Sys2Proof.Machine.execWbNumh v s
  | .wbNumb v => Sys2Proof.Machine.execWbNumb v s
  | .wbLogic b => Sys2Proof.Machine.execWbLogic b s
  | .wbCond b => Sys2Proof.Machine.execWbCond b s
  | .wbReg r => Sys2Proof.Machine.execWbReg r s
  | .wbTunl b => Sys2Proof.Machine.execWbTunl b s
end Sys2Proof.Machine
end

