-- ==== Sys2Proof/Machine/Load.lean ====
section
/-! DEFINITION. The host's move before an invocation (10_state R41, 70_reset R173), and the placing of one item where the
block reads next, for `State.withFetchWord`. -/

namespace Sys2Proof.Machine

/-- The host loads `TAG`, `D` and `CFG`; the invocation starts in the reset state of R40, whatever was there before
(R22, R169, R173). `P` stays as loaded before the first invocation (R172). -/
def State.load (s : State) (tag : Tag) (bytes : List Byte) (cfg : Cfg) : State :=
  { State.reset with tag := tag, d := Memory.ofBytes bytes, cfg := cfg, p := s.p }

/-- The state of a screen operation in progress, at address 0 of `f` with eight bytes still to decode. -/
def screenScaffold (s : State) (f : Screen) (w h : Nat) (bytes : List Byte) : State :=
  { s with
    op := some (.screen f)
    d := Memory.ofBytes (List.replicate 7 0 ++ bytes)
    begA := some 0
    endA := some 8
    w := some w
    rb := some (rowBytes (variantOf f) w)
    h := some h
    cap := some (rowBytes (variantOf f) w * h)
    eff := some 8
    poff := some (paletteOffsetOf s.p f)
    pal := s.p.defpal.map some
    buf := some (Buf.new (kindOf f) w h [])
    kc := some 0
    jc := some 0
    grp := some #v[0, 0, 0, 0] }

/-- The state of a walker operation in progress, its cursor at the first of the bytes, with eight zeros behind them. -/
def walkerScaffold (s : State) (o : Operation) (bytes : List Byte) : State :=
  { s with op := some o, d := Memory.ofBytes (bytes ++ List.replicate 8 0), cur := some 0 }

/-- The state of a WBASS2 operation in progress, the bytes filling a record, with a label table of zeros behind them. -/
def recordScaffold (s : State) (bytes : List Byte) : State :=
  { walkerScaffold s .wb2 bytes with rend := some bytes.length, tbl := some bytes.length }

/-- The state in which the block stands before an item in a place, the item's bytes where `nextBytes` reads them and the
registers of that place set, so that the very next step runs it (log 6). -/
def State.withItem (s : State) (pl : Place) (bytes : List Byte) : State :=
  match pl with
  | .operation t => { s with tag := t, pt := .dispatch }
  | .screenHeader => { s with op := some (.screen .sc8), d := Memory.ofBytes bytes, pt := .screenHeader }
  | .paletteWord =>
    { screenScaffold s .sc5 256 192 [] with d := Memory.ofBytes bytes, pt := .paletteWord (.embedded 0) 0 }
  | .nibbles => (screenScaffold s .sc5 256 192 bytes).goto (.nibbles 0)
  | .packedRgb => (screenScaffold s .sc8 256 192 bytes).goto (.packedRgb 0)
  | .group => (screenScaffold s .s12 256 192 bytes).goto (.group 0)
  | .groupPixel yae =>
    { screenScaffold s (if yae then .s10 else .s12) 256 192 [] with
      grp := some #v[bytes.headD 0, 0, 0, 0], pt := .groupPixel 0 0 }
  | .stampHeader => { s with op := some .stp, d := Memory.ofBytes bytes, pt := .stampHeader }
  | .stampPair =>
    { s with
      op := some .stp
      d := Memory.ofBytes (([4, 0, 1, 0] : List Byte) ++ [bytes.headD 0 <<< 6])
      sw := some 4
      sh := some 1
      n := some 4
      buf := some (Buf.new .idx 4 1 stampPalette)
      pt := .stampPair 0 }
  | .basSignature => { s with op := some .bas, d := Memory.ofBytes bytes, pt := .basSignature }
  | .basToken => (walkerScaffold s .bas bytes).goto .basToken
  | .bcd => (walkerScaffold s .bas bytes).goto .bcd
  | .wbSignature => { s with op := some .wb2, d := Memory.ofBytes bytes, pt := .wbSignature }
  | .prepassLength => { s with op := some .wb2, d := Memory.ofBytes bytes, pt := .prepass 0 }
  | .recordLength => (recordScaffold s bytes).goto .recordLength
  | .labelSlot => { recordScaffold s bytes with tbl := some 0, pt := .labelSlot 0 }
  | .lead => (recordScaffold s bytes).goto .lead
  | .operand => (recordScaffold s bytes).goto .operand

end Sys2Proof.Machine
end

