-- ==== Sys2Proof/Machine/Step.lean ====
section
/-! DEFINITION. One step: the item, or at `dispatch` the operation, that stands where the block reads next is decoded and
run. -/

namespace Sys2Proof.Machine

/-- One step. At `dispatch` it is one whole invocation of the operation that `TAG` selects (R156, R177); in the middle
of an invocation it is one item of its operation (log 1). -/
def step (s : State) : Host.Outcome State Fault Refusal := takeItem exec s

/-- The state with a word of the opcode table placed where the next step reads (log 6, log 11). -/
def State.withFetchWord (s : State) (nbits w : Nat) : State :=
  match tablePlace nbits w with
  | none => s
  | some pl => s.withItem pl (tableBytes nbits w)

end Sys2Proof.Machine
end

