-- ==== Sys2Proof/Safety.lean ====
section
/-! DEFINITION. The words in which claims about the block are stated: what a good state is, the states in which items and
invocations end, and what whole inputs mean, each written from the rules of spec/ and apart from the machine's own loops. -/

namespace Sys2Proof.Machine

/-! ### Good states -/

/-- Two states agree on the ports and on the parameters, which the block only reads (R21, R38, R48). -/
abbrev State.SamePorts (s t : State) : Prop := t.tag = s.tag ∧ t.d = s.d ∧ t.cfg = s.cfg ∧ t.p = s.p

/-- A screen operation of format `f` is past its preamble: its registers and its buffer are set (R86), and the bytes of
`[BEG, EFF)` are there (R89). -/
structure State.ScreenSet (s : State) (f : Screen) (beg : Word16) (last : Nat) : Prop where
  op : s.op = some (.screen f)
  begA : s.begA = some beg
  endA : ∃ fin, s.endA = some fin
  eff : s.eff = some last
  w : ∃ w, s.w = some w
  rb : ∃ rb, s.rb = some rb
  buf : ∃ b, s.buf = some b ∧ b.kind = kindOf f
  bound : last ≤ 65535
  payload : last ≤ beg.toNat ∨ 7 + (last - beg.toNat) ≤ s.d.size

/-- Every entry of `PAL` is set where the format has a resolver (R78, R79). -/
abbrev State.PaletteSet (s : State) (f : Screen) : Prop := resolvesPalette f = true → ∀ j : Fin 16, (s.pal[j]).isSome = true

/-- The place the block stands at belongs to the operation in progress, and what the rules of that place read has been
written: "No rule reads one before its writer has run" (R40). -/
def State.Ready (s : State) : Prop :=
  match s.pt with
  | .dispatch => s.op = none
  | .screenHeader => ∃ f, s.op = some (.screen f)
  | .paletteWord src i =>
    ∃ f beg eff, s.ScreenSet f beg eff ∧ (∀ j : Fin 16, j < i → (s.pal[j]).isSome = true) ∧
      match src with
      | .embedded base => base + 32 ≤ s.d.size
      | .external => ∃ e, s.cfg.ext = some e ∧ 32 ≤ e.size
  | .nibbles a =>
    ∃ f beg eff, s.ScreenSet f beg eff ∧ variantOf f = .a ∧ s.PaletteSet f ∧ beg.toNat ≤ a ∧ a < eff
  | .packedRgb a =>
    ∃ f beg eff, s.ScreenSet f beg eff ∧ variantOf f = .b ∧ s.PaletteSet f ∧ beg.toNat ≤ a ∧ a < eff
  | .group a =>
    ∃ f beg eff, s.ScreenSet f beg eff ∧ variantOf f = .c ∧ s.PaletteSet f ∧ beg.toNat ≤ a ∧ a + 4 ≤ eff
  | .groupPixel a _ =>
    (∃ f beg eff, s.ScreenSet f beg eff ∧ variantOf f = .c ∧ s.PaletteSet f ∧ beg.toNat ≤ a ∧ a + 4 ≤ eff) ∧
      s.grp.isSome = true ∧ s.kc.isSome = true ∧ s.jc.isSome = true
  | .stampHeader => s.op = some .stp
  | .stampPair i =>
    s.op = some .stp ∧ s.sw.isSome = true ∧ s.buf.isSome = true ∧
      ∃ n, s.n = some n ∧ i < n ∧ 4 + ceilDiv n 4 ≤ s.d.size
  | .basSignature => s.op = some .bas
  | .basToken => s.op = some .bas ∧ ∃ cur, s.cur = some cur ∧ cur < s.d.size
  | .bcd => s.op = some .bas ∧ s.cur.isSome = true
  | .wbSignature => s.op = some .wb2
  | .prepass _ => s.op = some .wb2
  | .recordLength => s.op = some .wb2 ∧ s.cur.isSome = true ∧ s.tbl.isSome = true
  | .labelSlot _ => s.op = some .wb2 ∧ s.cur.isSome = true ∧ s.rend.isSome = true ∧ s.tbl.isSome = true
  | .lead => s.op = some .wb2 ∧ s.cur.isSome = true ∧ s.rend.isSome = true ∧ s.tbl.isSome = true
  | .operand => s.op = some .wb2 ∧ s.cur.isSome = true ∧ s.rend.isSome = true ∧ s.tbl.isSome = true

/-- The invariant of the block: byte spaces and buffers in canonical form (log 16, log 17), chroma registers in range (R37),
`RES` empty until the end (R26, R176), and the place ready (R40). -/
structure State.Inv (s : State) : Prop where
  input : s.d.wf
  external : ∀ e, s.cfg.ext = some e → e.wf
  buffer : ∀ b, s.buf = some b → b.wf = true
  result : ∀ b, s.res = some (.image b) → b.wf = true
  kc : ∀ v, s.kc = some v → -32 ≤ v ∧ v ≤ 31
  jc : ∀ v, s.jc = some v → -32 ≤ v ∧ v ≤ 31
  unwritten : s.pt ≠ .dispatch → s.res = none
  place : s.Ready

/-! ### The states in which items and invocations end -/

/-- The end by a failure: `RES` set, `TXT` and `BUF` discarded, nothing else changed (R157). -/
def State.failed (s : State) (e : Err) (info : Int) : State :=
  { s with res := some (.fail e info), txt := [], buf := none, op := none, pt := .dispatch }

/-- The end by a refusal (R158). -/
def State.unmodelled (s : State) (u : Reason) : State :=
  { s with res := some (.unmodelled u), txt := [], buf := none, op := none, pt := .dispatch }

/-- The end of a walker whose text is `t` (R109, R134). -/
def State.listed (s : State) (t : Text) : State :=
  { s with txt := t, res := some (.text t), op := none, pt := .dispatch }

/-- The end of an image operation, `b` being the buffer before the doubling the user may have asked for (R84). -/
def State.drawn (s : State) (b : Buf) : State :=
  { s with
    buf := some (postDouble s.cfg.double b)
    res := some (.image (postDouble s.cfg.double b))
    op := none
    pt := .dispatch }

/-- The end of a BASIC token that emits `t`, the next byte being at `cur`: the next token, or, where the buffer ended
inside the line, `NL` and the end (R110). -/
def State.afterToken (s : State) (t : Text) (cur : Nat) : State :=
  if cur < s.d.size then { s with txt := s.txt ++ t, cur := some cur, pt := .basToken }
  else { s with cur := some cur }.listed (s.txt ++ t ++ [NL])

/-- The end of a WBASS2 operand that emits `t`, the next byte being at `cur`: the next operand, or `NL` and the next
record (R138, R144). -/
def State.afterOperand (s : State) (t : Text) (pend : Bool) (cur rend : Nat) : State :=
  if cur < rend then { s with txt := s.txt ++ t, pend := pend, cur := some cur, pt := .operand }
  else { s with txt := s.txt ++ t ++ [NL], pend := pend, cur := some cur, pt := .recordLength }

/-- The end of a record: `NL`, and `cur` where the next length byte stands (R138). -/
def State.afterRecord (s : State) (t : Text) (cur : Nat) : State :=
  { s with txt := s.txt ++ t ++ [NL], cur := some cur, pt := .recordLength }

/-- `n` spaces. -/
def spaces (n : Nat) : Text := List.replicate n SP

/-- The space an operand atom owes (R33). -/
def owedSpace (pend : Bool) : Text := if pend then [SP] else []

/-- The first item of the pixel loop of a format (R92, R94, R99), where the loop is not empty. -/
def firstItem (f : Screen) (beg eff : Nat) : Option Point :=
  match variantOf f with
  | .a => if beg < eff then some (.nibbles beg) else none
  | .b => if beg < eff then some (.packedRgb beg) else none
  | .c => if beg + 4 ≤ eff then some (.group beg) else none

/-- The buffer of a finished screen: the palette joins it where the kind is `IDX` (R30, R100 to R104). -/
def finishedBuf (f : Screen) (b : Buf) (colours : List Rgb) : Buf :=
  match kindOf f with
  | .idx => { b with pal := colours.map solid }
  | .rgba => b

/-- The pixel loop of format `f` is over: the picture `b` is finished, with the palette `PAL` where the kind is `IDX`. -/
def EndsPicture (s : State) (f : Screen) (b : Buf) (out : Out) : Prop :=
  ∀ colours : List Rgb, (kindOf f = .idx → s.pal.toList = colours.map some) → out = .next (s.drawn (finishedBuf f b colours))

/-- The pixel loop of format `f` begins at `BEG`, or is over where it is empty (R92, R94, R99). -/
def StartsPixels (s : State) (f : Screen) (beg eff : Nat) (b : Buf) (out : Out) : Prop :=
  match firstItem f beg eff with
  | some pt => out = .next { s with pt := pt }
  | none => EndsPicture s f b out

/-- Pixel `k` of the group at `a` is drawn with colour `c`, and the next pixel, the next group or the end follows (R96,
R97, R99). -/
def DrawsGroupPixel (s : State) (a : Nat) (k : Fin 4) (w : Nat) (b : Buf) (c : Rgba) (out : Out) : Prop :=
  let b' := b.write (rem (a + k.val) w) (quot (a + k.val) w) (.rgba c)
  (∀ h : k.val + 1 < 4, out = .next { s with buf := some b', pt := .groupPixel a ⟨k.val + 1, h⟩ }) ∧
  (k.val = 3 → ∀ eff, s.eff = some eff →
    (a + 8 ≤ eff → out = .next { s with buf := some b', pt := .group (a + 4) }) ∧
    (eff < a + 8 → ∀ f, s.op = some (.screen f) → EndsPicture s f b' out))

/-- Stamp pixel `i` of `n` is drawn with a palette index, and the next pixel or the end follows (R107, R108). -/
def DrawsStampPixel (s : State) (i w n : Nat) (b : Buf) (index : BitVec 4) (out : Out) : Prop :=
  let b' := b.write (rem i w) (quot i w) (.idx index)
  (i + 1 < n → out = .next { s with buf := some b', pt := .stampPair (i + 1) }) ∧
  (n ≤ i + 1 → out = .next (s.drawn (rowDup b')))

/-- With the text `txt` so far, a BASIC line begins at `cur`: the end of the program, a line number that is cut off, or
the line number and a space (R110). -/
def StartsLine (s : State) (txt : Text) (cur : Nat) (out : Out) : Prop :=
  (s.d.size < cur + 2 → out = .next ({ s with cur := some cur }.listed txt)) ∧
  (cur + 2 ≤ s.d.size → s.d.read16 cur = some 0 → out = .next ({ s with cur := some cur }.listed txt)) ∧
  (∀ link, cur + 2 ≤ s.d.size → s.d.read16 cur = some link → link ≠ 0 → s.d.read16 (cur + 2) = none →
    ∃ info, out = .next ({ s with cur := some cur }.failed .truncatedPayload info)) ∧
  (∀ link ln, cur + 2 ≤ s.d.size → s.d.read16 cur = some link → link ≠ 0 → s.d.read16 (cur + 2) = some ln →
    out = .next ({ s with txt := txt }.afterToken (dec ln.toNat ++ [SP]) (cur + 4)))

/-! ### Whole inputs -/

/-- The instructions that are items of an operation, not operations themselves (R2, R55). -/
def isItem : Instr → Bool
  | .sc5 | .sc7 | .sc8 | .s10 | .s12 | .bas | .wb2 | .stp | .unknown _ => false
  | .palword _ _ _ | .nib _ _ | .rgb8 _ _ _ | .yjkgrp _ _ _ _ | .yae _ | .yjk _
  | .stphdr _ _ | .stp0 | .stp1 | .stphi _ | .scrhdr _ _
  | .basEol | .basInt2 _ _ | .basInt1 _ | .basFlt4 _ _ _ _ | .basColrem | .basColelse | .basExt _ | .basPrim _
  | .basStr _ _ | .basChr _ | .basDig _ | .basUnl _ | .basBcd _ _ _ _ | .basFile | .wbFile | .wbPrepass _ | .wbEnd
  | .wbBlank | .wbRec _ | .wbLrec _ | .wbSlot _ | .wbLcmt _ | .wbLmn _ | .wbLunl _ | .wbCmt _ | .wbOp _
  | .wbStr _ _ | .wbLref _ | .wbNumd _ | .wbNumh _ | .wbNumb _ | .wbLogic _ | .wbCond _ | .wbReg _ | .wbTunl _ => true

/-- The height of a screen image (R87). -/
def pictureHeight (f : Screen) (s : State) (fin : Word16) : Nat :=
  heightOf fin.toNat (rowBytes (variantOf f) (widthOf s.p f))

/-- `EFF` (R88). -/
def pictureEnd (f : Screen) (s : State) (fin : Word16) : Nat :=
  min fin.toNat (rowBytes (variantOf f) (widthOf s.p f) * pictureHeight f s fin)

/-- The registers that the preamble writes before the payload is checked (R86 to R88). -/
def State.afterHeader (s : State) (f : Screen) (beg fin : Word16) : State :=
  { s with
    begA := some beg
    endA := some fin
    w := some (widthOf s.p f)
    rb := some (rowBytes (variantOf f) (widthOf s.p f))
    h := some (pictureHeight f s fin)
    cap := some (rowBytes (variantOf f) (widthOf s.p f) * pictureHeight f s fin)
    eff := some (pictureEnd f s fin) }

/-- The buffer that the preamble creates (R86, R90), its palette still empty (log 27). -/
def blankPicture (f : Screen) (s : State) (fin : Word16) : Buf :=
  { kind := kindOf f, w := widthOf s.p f, h := pictureHeight f s fin, pal := [], cells := [] }

/-- The state after the whole preamble, which writes `POFF` too (R28, R40, R86). -/
def State.afterPreamble (s : State) (f : Screen) (beg fin : Word16) : State :=
  { s.afterHeader f beg fin with poff := some (paletteOffsetOf s.p f), buf := some (blankPicture f s fin) }

/-- An input that the preamble of screen format `f` accepts (R86 to R89): the header is there, `BEG ≤ END`, and so are the
bytes of `[BEG, EFF)`. A row has at least one byte: R87 states no height where `RB = 0` (log 9). -/
structure ScreenInput (f : Screen) (s : State) (beg fin : Word16) : Prop where
  input : s.d.wf
  header : 7 ≤ s.d.size
  begAt : s.d.read16 1 = some beg
  endAt : s.d.read16 3 = some fin
  order : beg.toNat ≤ fin.toNat
  row : 0 < rowBytes (variantOf f) (widthOf s.p f)
  payload : pictureEnd f s fin ≤ beg.toNat ∨ 7 + (pictureEnd f s fin - beg.toNat) ≤ s.d.size

/-- The sixteen palette words of `m` from `base` on spell `pal` (R60, R77, R78). -/
def SpellsPalette (p : Params) (m : Memory) (base : Nat) (pal : Vector Rgb 16) : Prop :=
  ∀ i : Fin 16, ∃ w, m.read16 (base + 2 * i.val) = some w ∧
    pal[i] = palWord p (w.extractLsb' 4 3) (w.extractLsb' 8 3) (w.extractLsb' 0 3)

/-- `pal` is the palette that R78 resolves: the embedded one when the format has a `POFF` and `END ≥ POFF`, else the
external one when there is one, else the default. Where the bytes of the chosen source are missing, no palette is. -/
def ResolvedPalette (f : Screen) (s : State) (beg fin : Word16) (pal : Vector Rgb 16) : Prop :=
  (∀ po, paletteOffsetOf s.p f = some po → po.toNat ≤ fin.toNat →
    beg.toNat ≤ po.toNat ∧ SpellsPalette s.p s.d (7 + (po.toNat - beg.toNat)) pal) ∧
  ((∀ po, paletteOffsetOf s.p f = some po → fin.toNat < po.toNat) →
    (∀ e, s.cfg.ext = some e → e.wf ∧ SpellsPalette s.p e 0 pal) ∧
    (s.cfg.ext = none → pal = s.p.defpal))

/-- The colour of luma `y` under the chroma values `jc` and `kc`, each channel clamped before the table (R97). -/
def lumaColour (p : Params) (y : BitVec 5) (jc kc : Int) : Rgba :=
  ⟨I5 p (channel (y.toNat + jc)), I5 p (channel (y.toNat + kc)),
    I5 p (channel ((5 * (y.toNat : Int)).tdiv 4 - jc.tdiv 2 - kc.tdiv 4)), 255⟩

/-- The signed chroma value of two group bytes: their low 3 bits make a 6-bit value, and one above 31 stands for that value
less 64 (R13, R95). -/
def chromaOf (lo hi : Byte) : Int :=
  let v : Nat := lo.toNat % 8 + 8 * (hi.toNat % 8)
  if v ≤ 31 then v else (v : Int) - 64

/-- The payload byte at virtual address `a` (R43). -/
def payloadByte (s : State) (beg : Word16) (a : Nat) : Byte := (s.d.read (7 + (a - beg.toNat))).getD 0

/-- What cell `(x, y)` of a variant-A picture shows: the high or the low nibble of address `y * RB + x / 2`, where that
address lies in `[BEG, EFF)` and `x` in a byte column, else the fill (R88, R90, R91, R92). -/
def cellA (f : Screen) (s : State) (beg fin : Word16) (x y : Nat) : Pixel :=
  let rb := rowBytes (variantOf f) (widthOf s.p f)
  let a := y * rb + x / 2
  if x / 2 < rb ∧ beg.toNat ≤ a ∧ a < pictureEnd f s fin then
    .idx (if x % 2 = 0 then (payloadByte s beg a).extractLsb' 4 4 else (payloadByte s beg a).extractLsb' 0 4)
  else .idx 0

/-- What cell `(x, y)` of a variant-B picture shows (R88, R90, R93, R94). -/
def cellB (f : Screen) (s : State) (beg fin : Word16) (x y : Nat) : Pixel :=
  let a := y * widthOf s.p f + x
  if beg.toNat ≤ a ∧ a < pictureEnd f s fin then
    let v := payloadByte s beg a
    .rgba ⟨I3 s.p (v.extractLsb' 2 3), I3 s.p (v.extractLsb' 5 3), I2 s.p (v.extractLsb' 0 2), 255⟩
  else .rgba ⟨0, 0, 0, 0⟩

/-- What cell `(x, y)` of a variant-C picture shows: address `a = y * W + x` is pixel `k` of the group at `a − k`, groups
starting at `BEG`; an incomplete group keeps the fill (R88, R90, R95 to R99). -/
def cellC (f : Screen) (s : State) (beg fin : Word16) (pal : Vector Rgb 16) (x y : Nat) : Pixel :=
  let a := y * widthOf s.p f + x
  let k := (a - beg.toNat) % 4
  let g := a - k
  if beg.toNat ≤ a ∧ g + 4 ≤ pictureEnd f s fin then
    let byte := fun j : Nat => payloadByte s beg (g + j)
    let luma := (byte k).extractLsb' 3 5
    if yaeOf f = true ∧ luma.toNat % 2 = 1 then
      .rgba (solid (pal[luma.toNat / 2]'(by have := luma.isLt; omega)))
    else
      .rgba (lumaColour s.p luma (chromaOf (byte 2) (byte 3)) (chromaOf (byte 0) (byte 1)))
  else .rgba ⟨0, 0, 0, 0⟩

/-- An invocation ends with a picture: `RES` is the image, doubled where the user asked for it (R84), of a buffer of the
given kind, geometry and palette whose cells are given; the ports stay. -/
def Draws (s : State) (out : Out) (kind : Kind) (w h : Nat) (pal : List Rgba) (cell : Nat → Nat → Pixel) : Prop :=
  ∃ t b, out = .next t ∧ s.SamePorts t ∧ t.pt = .dispatch ∧ t.res = some (.image (postDouble s.cfg.double b)) ∧
    b.kind = kind ∧ b.w = w ∧ b.h = h ∧ b.pal = pal ∧ b.wf = true ∧
    ∀ x y, x < w → y < h → b.read x y = some (cell x y)

/-- The 2-bit value of stamp pixel `i` (R61, R107). -/
def stampValue (s : State) (i : Nat) : Nat := ((s.d.read (4 + i / 4)).getD 0).toNat / 4 ^ (3 - i % 4) % 4

/-! ### Programs -/

/-- The text of an action for an unlisted byte (R9, R123; log 10). -/
def unlistedText : UnlistedAction → Text
  | .refuse => []
  | .emit t => t

/-- The text a BASIC token emits (R113 to R123). -/
def tokenText (p : Params) : Instr → Text
  | .basInt2 _ v => dec v.toNat
  | .basInt1 v => dec v.toNat
  | .basFlt4 f0 f1 f2 f3 => bcdText p f0 f1 f2 f3
  | .basExt e => dict p.basExt ((e.toNat : Int) - 0x81)
  | .basPrim b => dict p.basPrim ((b.toNat : Int) - 0x81)
  | .basStr body closed => 0x22 :: (body ++ if closed then [0x22] else [])
  | .basChr b => [b]
  | .basDig d => dec d.toNat
  | .basUnl _ => unlistedText p.basUnlisted
  | .sc5 | .sc7 | .sc8 | .s10 | .s12 | .bas | .wb2 | .stp | .unknown _ | .palword _ _ _ | .nib _ _ | .rgb8 _ _ _
  | .yjkgrp _ _ _ _ | .yae _ | .yjk _ | .stphdr _ _ | .stp0 | .stp1 | .stphi _ | .scrhdr _ _ | .basEol | .basColrem
  | .basColelse | .basBcd _ _ _ _ | .basFile | .wbFile | .wbPrepass _ | .wbEnd | .wbBlank | .wbRec _
  | .wbLrec _ | .wbSlot _ | .wbLcmt _ | .wbLmn _ | .wbLunl _ | .wbCmt _ | .wbOp _ | .wbStr _ _ | .wbLref _
  | .wbNumd _ | .wbNumh _ | .wbNumb _ | .wbLogic _ | .wbCond _ | .wbReg _ | .wbTunl _ => []

/-- The bytes a token takes up: its encoding without the lookahead byte that `COLELSE` leaves (R63, R117). -/
def tokenBytes (i : Instr) : List Byte := (encode i).take ((encode i).length - i.leaves.length)

/-- The tokens that stand for themselves before a byte `next`, or at the end of the bytes: a colon is a character unless it
is part of `COLREM` or `COLELSE`, and a string without closing quote ends before 0x00 or with the bytes (R63, R71). -/
def tokenFits (next : Option Byte) : Instr → Bool
  | .basInt2 _ _ => true
  | .basInt1 _ => true
  | .basFlt4 _ _ _ _ => true
  | .basColrem => true
  | .basColelse => next == some 0xA1
  | .basExt _ => true
  | .basPrim b => (Instr.basPrim b).wf
  | .basStr body closed => (Instr.basStr body closed).wf && (closed || next == none || next == some 0x00)
  | .basChr b => (Instr.basChr b).wf && (b != 0x3A || (next != some 0x8F && next != some 0xA1))
  | .basDig d => (Instr.basDig d).wf
  | .basUnl b => (Instr.basUnl b).wf
  | .sc5 | .sc7 | .sc8 | .s10 | .s12 | .bas | .wb2 | .stp | .unknown _ | .palword _ _ _ | .nib _ _ | .rgb8 _ _ _
  | .yjkgrp _ _ _ _ | .yae _ | .yjk _ | .stphdr _ _ | .stp0 | .stp1 | .stphi _ | .scrhdr _ _ | .basEol
  | .basBcd _ _ _ _ | .basFile | .wbFile | .wbPrepass _ | .wbEnd | .wbBlank | .wbRec _ | .wbLrec _
  | .wbSlot _ | .wbLcmt _ | .wbLmn _ | .wbLunl _ | .wbCmt _ | .wbOp _ | .wbStr _ _ | .wbLref _ | .wbNumd _
  | .wbNumh _ | .wbNumb _ | .wbLogic _ | .wbCond _ | .wbReg _ | .wbTunl _ => false

/-- Every token of a list stands for itself before what follows it, `next` at last. -/
def tokensFit (next : List Byte) : List Instr → Bool
  | [] => true
  | i :: rest => tokenFits (rest.flatMap tokenBytes ++ next).head? i && tokensFit next rest

/-- One line of a BASIC program (R62). -/
structure BasLine where
  link : Word16
  number : Word16
  tokens : List Instr
  deriving DecidableEq, Repr

/-- The bytes of a line (R62). -/
def BasLine.bytes (l : BasLine) : List Byte :=
  le16Bytes l.link ++ le16Bytes l.number ++ l.tokens.flatMap tokenBytes ++ [0x00]

/-- The listing of a line: `dec(lineNumber) SP item* NL` (R72). -/
def BasLine.text (p : Params) (l : BasLine) : Text :=
  dec l.number.toNat ++ [SP] ++ l.tokens.flatMap (tokenText p) ++ [NL]

/-- A line that the walker lists where `next` follows its tokens: it does not end the program, its tokens stand for
themselves, and no byte of it is refused (R110, R123). -/
structure BasLine.Fits (p : Params) (next : List Byte) (l : BasLine) : Prop where
  link : l.link ≠ 0
  tokens : tokensFit next l.tokens = true
  unlisted : ∀ b, Instr.basUnl b ∈ l.tokens → ∃ t, p.basUnlisted = .emit t

/-- How the bytes of a BASIC program end, behind its lines (R62, R110). -/
inductive BasEnding
  /-- The link 0x0000, and whatever stands behind it. -/
  | sentinel (tail : List Byte)
  /-- Fewer than two bytes where a link should stand (D25). -/
  | cutOff (rest : List Byte)
  /-- A last line without its zero byte (D28). -/
  | openLine (line : BasLine)
  deriving DecidableEq, Repr

/-- The bytes of an ending. -/
def BasEnding.bytes : BasEnding → List Byte
  | .sentinel tail => [0x00, 0x00] ++ tail
  | .cutOff rest => rest
  | .openLine l => le16Bytes l.link ++ le16Bytes l.number ++ l.tokens.flatMap tokenBytes

/-- An ending that the walker takes for one. -/
def BasEnding.Fits (p : Params) : BasEnding → Prop
  | .sentinel _ => True
  | .cutOff rest => rest.length < 2
  | .openLine l => l.Fits p []

/-- What an ending adds to the listing: nothing, or the last line with its `NL` (R110, D28). -/
def BasEnding.text (p : Params) : BasEnding → Text
  | .sentinel _ => []
  | .cutOff _ => []
  | .openLine l => l.text p

/-- The operands that stand for themselves, at the end of a record or before more of it, and which no rule refuses: a
string without closing quote ends with its record (R68, R71). -/
def operandFits (atEnd : Bool) : Instr → Bool
  | .wbOp b => (Instr.wbOp b).wf
  | .wbStr body closed => (Instr.wbStr body closed).wf && (closed || atEnd)
  | .wbLref _ => true
  | .wbNumd _ => true
  | .wbNumh _ => true
  | .wbNumb _ => true
  | .wbLogic b => (Instr.wbLogic b).wf
  | .wbCond b => (Instr.wbCond b).wf
  | .wbReg _ => true
  | .sc5 | .sc7 | .sc8 | .s10 | .s12 | .bas | .wb2 | .stp | .unknown _ | .palword _ _ _ | .nib _ _ | .rgb8 _ _ _
  | .yjkgrp _ _ _ _ | .yae _ | .yjk _ | .stphdr _ _ | .stp0 | .stp1 | .stphi _ | .scrhdr _ _ | .basEol
  | .basInt2 _ _ | .basInt1 _ | .basFlt4 _ _ _ _ | .basColrem | .basColelse | .basExt _ | .basPrim _ | .basStr _ _
  | .basChr _ | .basDig _ | .basUnl _ | .basBcd _ _ _ _ | .basFile | .wbFile | .wbPrepass _ | .wbEnd | .wbBlank
  | .wbRec _ | .wbLrec _ | .wbSlot _ | .wbLcmt _ | .wbLmn _ | .wbLunl _ | .wbCmt _ | .wbTunl _ => false

/-- Every operand of a list stands for itself, the last one being at the end of its record where `atEnd` says so. -/
def operandsFit (atEnd : Bool) : List Instr → Bool
  | [] => true
  | i :: rest => operandFits (rest.isEmpty && atEnd) i && operandsFit atEnd rest

/-- The text of an operand, without the space it may owe (R146 to R151); `names` gives the label names. -/
def operandText (p : Params) (names : Word16 → Text) : Instr → Text
  | .wbOp b => dict p.wbOp (((b.toNat / 2 : Nat) : Int) - 1)
  | .wbStr body closed => 0x22 :: (body ++ if closed then [0x22] else [])
  | .wbLref idx => names idx
  | .wbNumd v => dec v.toNat
  | .wbNumh v => numHex v
  | .wbNumb v => numBin v
  | .wbLogic b => dict p.wbLogic ((b.toNat : Int) - 153)
  | .wbCond b => dict p.wbCond ((b.toNat : Int) - 144)
  | .wbReg r => dict p.wbReg r.toNat
  | .sc5 | .sc7 | .sc8 | .s10 | .s12 | .bas | .wb2 | .stp | .unknown _ | .palword _ _ _ | .nib _ _ | .rgb8 _ _ _
  | .yjkgrp _ _ _ _ | .yae _ | .yjk _ | .stphdr _ _ | .stp0 | .stp1 | .stphi _ | .scrhdr _ _ | .basEol
  | .basInt2 _ _ | .basInt1 _ | .basFlt4 _ _ _ _ | .basColrem | .basColelse | .basExt _ | .basPrim _ | .basStr _ _
  | .basChr _ | .basDig _ | .basUnl _ | .basBcd _ _ _ _ | .basFile | .wbFile | .wbPrepass _ | .wbEnd | .wbBlank
  | .wbRec _ | .wbLrec _ | .wbSlot _ | .wbLcmt _ | .wbLmn _ | .wbLunl _ | .wbCmt _ | .wbTunl _ => []

/-- Whether an operand is operator or punctuation, which takes no space and leaves none owed (R146). -/
def isOperator : Instr → Bool
  | .wbOp _ => true
  | .sc5 | .sc7 | .sc8 | .s10 | .s12 | .bas | .wb2 | .stp | .unknown _ | .palword _ _ _ | .nib _ _ | .rgb8 _ _ _
  | .yjkgrp _ _ _ _ | .yae _ | .yjk _ | .stphdr _ _ | .stp0 | .stp1 | .stphi _ | .scrhdr _ _ | .basEol
  | .basInt2 _ _ | .basInt1 _ | .basFlt4 _ _ _ _ | .basColrem | .basColelse | .basExt _ | .basPrim _ | .basStr _ _
  | .basChr _ | .basDig _ | .basUnl _ | .basBcd _ _ _ _ | .basFile | .wbFile | .wbPrepass _ | .wbEnd | .wbBlank
  | .wbRec _ | .wbLrec _ | .wbSlot _ | .wbLcmt _ | .wbLmn _ | .wbLunl _ | .wbCmt _ | .wbStr _ _ | .wbLref _
  | .wbNumd _ | .wbNumh _ | .wbNumb _ | .wbLogic _ | .wbCond _ | .wbReg _ | .wbTunl _ => false

/-- The text of a line's operands after `u`, and whether a space is owed after them (R33, R73). -/
def operandsText (p : Params) (names : Word16 → Text) : List Instr → Text → Bool → Text
  | [], u, _ => u
  | i :: rest, u, pend =>
    operandsText p names rest (u ++ (if isOperator i then [] else owedSpace pend) ++ operandText p names i)
      (!isOperator i)

/-- A record of a WBASS2 program (R66, R67): a blank line, a line with a label alone, a comment line, or an instruction
line with its operands and its trailing comment. -/
inductive WbRecord
  | blank
  | labelOnly (idx : Word16)
  | comment (label : Option Word16) (text : List Byte)
  | line (label : Option Word16) (m : BitVec 7) (operands : List Instr) (remark : Option (List Byte))
  deriving DecidableEq, Repr

/-- The bytes of a label index. -/
def labelBytes : Option Word16 → List Byte
  | none => []
  | some idx => le16Bytes idx

/-- The bytes of a trailing comment. -/
def remarkBytes : Option (List Byte) → List Byte
  | none => []
  | some text => 0x01 :: text

/-- The declared bytes of a record (R66). -/
def WbRecord.body : WbRecord → List Byte
  | .blank => []
  | .labelOnly idx => le16Bytes idx
  | .comment label text => labelBytes label ++ 0x01 :: text
  | .line label m operands remark =>
    labelBytes label ++ ((1 : BitVec 1) ++ m) :: (operands.flatMap encode ++ remarkBytes remark)

/-- Whether a record has a label. -/
def WbRecord.labelled : WbRecord → Bool
  | .blank => false
  | .labelOnly _ => true
  | .comment label _ => label.isSome
  | .line label _ _ _ => label.isSome

/-- The bytes of a record: its length byte, with bit 7 for a label, and the bytes it declares (R66). -/
def WbRecord.bytes (r : WbRecord) : List Byte :=
  BitVec.ofNat 8 ((if r.labelled then 0x80 else 0) + r.body.length) :: r.body

/-- A record whose length has 7 bits, whose length byte is not the end marker 0xFF, and whose operands fit. -/
def WbRecord.fits (r : WbRecord) : Bool :=
  decide (r.body.length ≤ 127 ∧ (r.labelled = true → r.body.length ≤ 126)) &&
    match r with
    | .line _ _ operands remark => operandsFit remark.isNone operands
    | .blank | .labelOnly _ | .comment _ _ => true

/-- The label index an operand refers to (R148). -/
def refIndex : Instr → Option Word16
  | .wbLref idx => some idx
  | .sc5 | .sc7 | .sc8 | .s10 | .s12 | .bas | .wb2 | .stp | .unknown _ | .palword _ _ _ | .nib _ _ | .rgb8 _ _ _
  | .yjkgrp _ _ _ _ | .yae _ | .yjk _ | .stphdr _ _ | .stp0 | .stp1 | .stphi _ | .scrhdr _ _ | .basEol
  | .basInt2 _ _ | .basInt1 _ | .basFlt4 _ _ _ _ | .basColrem | .basColelse | .basExt _ | .basPrim _ | .basStr _ _
  | .basChr _ | .basDig _ | .basUnl _ | .basBcd _ _ _ _ | .basFile | .wbFile | .wbPrepass _ | .wbEnd | .wbBlank
  | .wbRec _ | .wbLrec _ | .wbSlot _ | .wbLcmt _ | .wbLmn _ | .wbLunl _ | .wbCmt _ | .wbOp _ | .wbStr _ _
  | .wbNumd _ | .wbNumh _ | .wbNumb _ | .wbLogic _ | .wbCond _ | .wbReg _ | .wbTunl _ => none

/-- The label indices a record uses. -/
def WbRecord.labels : WbRecord → List Word16
  | .blank => []
  | .labelOnly idx => [idx]
  | .comment label _ => label.toList
  | .line label _ operands _ => label.toList ++ operands.filterMap refIndex

/-- A line's text, padded to column `c` (R140). -/
def padTo (c : Nat) (u : Text) : Text := u ++ spaces (c - col u)

/-- The text of a label with its colon (R138). -/
def labelText (names : Word16 → Text) : Option Word16 → Text
  | none => []
  | some idx => names idx ++ [0x3A]

/-- The text of a record (R73, R136, R138, R141, R142, R145). -/
def WbRecord.text (p : Params) (names : Word16 → Text) : WbRecord → Text
  | .blank => [NL]
  | .labelOnly idx => labelText names (some idx) ++ [NL]
  | .comment label text =>
    (if label.isSome then padTo 8 (labelText names label) else []) ++ 0x3B :: text ++ [NL]
  | .line label m operands remark =>
    let u := padTo 8 (labelText names label) ++ dict p.wbMnem m.toNat
    let u := if operands = [] ∧ remark = none then u else padTo 14 u
    let u := operandsText p names operands u false
    match remark with
    | none => u ++ [NL]
    | some text => (if col u < 30 then padTo 30 u else u ++ [SP]) ++ 0x3B :: text ++ [NL]

/-! ### Numbers read back from their spelling -/

/-- The digit codes of a base up to 16, in a case (R14, R125). -/
def digitTable : HexCase → Text
  | .upper => [0x30, 0x31, 0x32, 0x33, 0x34, 0x35, 0x36, 0x37, 0x38, 0x39, 0x41, 0x42, 0x43, 0x44, 0x45, 0x46]
  | .lower => [0x30, 0x31, 0x32, 0x33, 0x34, 0x35, 0x36, 0x37, 0x38, 0x39, 0x61, 0x62, 0x63, 0x64, 0x65, 0x66]

/-- `hi` and `lo` are the two hexadecimal digits of a byte, high nibble first (R125). -/
def AreHexDigits (c : HexCase) (b hi lo : Byte) : Prop :=
  (digitTable c)[b.toNat / 16]? = some hi ∧ (digitTable c)[b.toNat % 16]? = some lo

/-- The value of a digit code, in either case. -/
def digitValue (c : Byte) : Nat :=
  if c.toNat ≤ 0x39 then c.toNat - 0x30 else if c.toNat ≤ 0x46 then c.toNat - 0x41 + 10 else c.toNat - 0x61 + 10

/-- The number that a text of digits spells in a base. -/
def readNumber (base : Nat) (t : Text) : Nat := t.foldl (fun n c => base * n + digitValue c) 0

/-- Every code is a decimal digit. -/
def allDecimal (t : Text) : Bool := t.all fun c => decide (0x30 ≤ c.toNat ∧ c.toNat ≤ 0x39)

/-! ### Which items write which registers -/

/-- `PEND` after an item that goes on (R33, R137, R145 to R149, R151); a blank record clears it too (D61; log 28). -/
def pendAfter (i : Instr) (pend : Bool) : Bool :=
  match i with
  | .wbBlank => false
  | .wbRec _ => false
  | .wbLrec _ => false
  | .wbCmt _ => false
  | .wbOp _ => false
  | .wbStr _ _ => true
  | .wbLref _ => true
  | .wbNumd _ => true
  | .wbNumh _ => true
  | .wbNumb _ => true
  | .wbLogic _ => true
  | .wbCond _ => true
  | .wbReg _ => true
  | .sc5 | .sc7 | .sc8 | .s10 | .s12 | .bas | .wb2 | .stp | .unknown _ | .palword _ _ _ | .nib _ _ | .rgb8 _ _ _
  | .yjkgrp _ _ _ _ | .yae _ | .yjk _ | .stphdr _ _ | .stp0 | .stp1 | .stphi _ | .scrhdr _ _ | .basEol
  | .basInt2 _ _ | .basInt1 _ | .basFlt4 _ _ _ _ | .basColrem | .basColelse | .basExt _ | .basPrim _ | .basStr _ _
  | .basChr _ | .basDig _ | .basUnl _ | .basBcd _ _ _ _ | .basFile | .wbFile | .wbPrepass _ | .wbEnd
  | .wbSlot _ | .wbLcmt _ | .wbLmn _ | .wbLunl _ | .wbTunl _ => pend

/-- `LBL` after an item that goes on (R34, R137, R138); a blank record clears it too (D61; log 28). -/
def lblAfter (i : Instr) (lbl : Bool) : Bool :=
  match i with
  | .wbBlank => false
  | .wbRec _ => false
  | .wbLrec _ => true
  | .sc5 | .sc7 | .sc8 | .s10 | .s12 | .bas | .wb2 | .stp | .unknown _ | .palword _ _ _ | .nib _ _ | .rgb8 _ _ _
  | .yjkgrp _ _ _ _ | .yae _ | .yjk _ | .stphdr _ _ | .stp0 | .stp1 | .stphi _ | .scrhdr _ _ | .basEol
  | .basInt2 _ _ | .basInt1 _ | .basFlt4 _ _ _ _ | .basColrem | .basColelse | .basExt _ | .basPrim _ | .basStr _ _
  | .basChr _ | .basDig _ | .basUnl _ | .basBcd _ _ _ _ | .basFile | .wbFile | .wbPrepass _ | .wbEnd
  | .wbSlot _ | .wbLcmt _ | .wbLmn _ | .wbLunl _ | .wbCmt _ | .wbOp _ | .wbStr _ _ | .wbLref _ | .wbNumd _
  | .wbNumh _ | .wbNumb _ | .wbLogic _ | .wbCond _ | .wbReg _ | .wbTunl _ => lbl

end Sys2Proof.Machine
end

