-- ==== Sys2Proof/Certificates/Slice0/Obligations.lean ====
section
/-! DEFINITION. The statements for the provers. Each docstring names the rules of spec/ that it formalises. A statement
that rests on a choice of the model says so and names the log entry. -/

section

open Sys2Proof Sys2Proof.Machine

/-! ### Encoding -/

/-- The decoder reads back every well-formed instruction from its encoding, every operand at every value (R55 to R69). -/
def Obligations.DecodeUndoesEncode : Prop :=
  ∀ i : Instr, i.wf = true → decode i.place (encode i) = .ok (i, i.leaves)

/-- What the decoder reads is well formed, belongs to the place it was read in, and stands before the bytes that are left;
an item has at least one byte (R55 to R69). A YJK byte is also read in the place of a YAE byte (R59). -/
def Obligations.DecodedInstructionsAreWellFormed : Prop :=
  ∀ (pl : Place) (bs : List Byte) (i : Instr) (rest : List Byte), decode pl bs = .ok (i, rest) →
    i.wf = true ∧ (i.place = pl ∨ (pl = .groupPixel true ∧ i.place = .groupPixel false)) ∧
    ∃ used, bs = used ++ rest ∧ (used = [] → ∃ t, pl = .operation t)

/-- A BASIC token takes the bytes of its length column whatever follows, a keyword or a literal, a colon, an unterminated
string and an unlisted byte alike. A colon looks at the byte after it: before 0x8F it takes that byte too, before 0xA1 it
leaves it, else it is a character. A string without closing quote stops before a zero byte, and the zero byte ends the line,
whatever stands behind it (R62, R63, R71, R116, R117, R120, R121, R123). -/
def Obligations.BasTokensHaveTheirLength : Prop :=
  (∀ (i : Instr) (rest : List Byte), tokenFits rest.head? i = true →
    decode .basToken (tokenBytes i ++ rest) = .ok (i, rest)) ∧
  (∀ rest : List Byte, decode .basToken (0x3A :: 0x8F :: rest) = .ok (.basColrem, rest)) ∧
  (∀ rest : List Byte, decode .basToken (0x3A :: 0xA1 :: rest) = .ok (.basColelse, 0xA1 :: rest)) ∧
  (∀ rest : List Byte, rest.head? ≠ some 0x8F → rest.head? ≠ some 0xA1 →
    decode .basToken (0x3A :: rest) = .ok (.basChr 0x3A, rest)) ∧
  (∀ body rest : List Byte, (∀ c ∈ body, c ≠ 0x22 ∧ c ≠ 0x00) →
    decode .basToken (0x22 :: (body ++ 0x00 :: rest)) = .ok (.basStr body false, 0x00 :: rest)) ∧
  (∀ rest : List Byte, decode .basToken (0x00 :: rest) = .ok (.basEol, rest)) ∧
  (∀ (b : Byte) (rest : List Byte), (Instr.basUnl b).wf = true → decode .basToken (b :: rest) = .ok (.basUnl b, rest))

/-- A WBASS2 operand takes the bytes of its length column whatever follows; a comment and a string without closing quote
take all that is left of the record; a mnemonic and an unlisted byte take one byte (R67, R68, R71, R147). -/
def Obligations.OperandsHaveTheirLength : Prop :=
  (∀ (i : Instr) (rest : List Byte), operandFits rest.isEmpty i = true →
    decode .operand (encode i ++ rest) = .ok (i, rest)) ∧
  (∀ text : List Byte, decode .operand (0x01 :: text) = .ok (.wbCmt text, [])) ∧
  (∀ (b : Byte) (rest : List Byte), (Instr.wbTunl b).wf = true → decode .operand (b :: rest) = .ok (.wbTunl b, rest)) ∧
  (∀ text : List Byte, decode .lead (0x01 :: text) = .ok (.wbLcmt text, [])) ∧
  (∀ (m : BitVec 7) (rest : List Byte), decode .lead (((1 : BitVec 1) ++ m) :: rest) = .ok (.wbLmn m, rest)) ∧
  (∀ (b : Byte) (rest : List Byte), (Instr.wbLunl b).wf = true → decode .lead (b :: rest) = .ok (.wbLunl b, rest))

/-- A BASIC token and a WBASS2 operand are rejected only where their operand bytes are cut off, and no first byte is
rejected for its own sake (R63, R68, R113 to R115, R118, R148, R149). -/
def Obligations.OnlyCutOffItemsAreRejected : Prop :=
  (∀ (b : Byte) (rest : List Byte),
    (∃ e, decode .basToken (b :: rest) = .error e) ↔
      ((b = 0x0E ∨ b = 0x1C) ∧ rest.length < 2) ∨ ((b = 0x0F ∨ b = 0xFF) ∧ rest.length < 1) ∨
        (b = 0x1D ∧ rest.length < 4)) ∧
  (∀ (b : Byte) (rest : List Byte),
    (∃ e, decode .operand (b :: rest) = .error e) ↔
      (b = 0xC0 ∨ b = 0xE0 ∨ b = 0xE1 ∨ b = 0xE2) ∧ rest.length < 2)

/-- Bytes that examples of the spec write out, and what they spell (R58, R60, R64, R91, R93, R96, R107, R113 to R122,
R138, R146, R149, R151). A sanity statement. -/
def Obligations.SpecWordsDecode : Prop :=
  decode .nibbles [0x5C] = .ok (.nib 5 12, []) ∧
  decode .packedRgb [0x49] = .ok (.rgb8 2 2 1, []) ∧
  decode .paletteWord [0x27, 0x05] = .ok (.palword 2 5 7, []) ∧
  decode (.groupPixel true) [0x18] = .ok (.yae 1, []) ∧
  decode (.groupPixel false) [0x18] = .ok (.yjk 3, []) ∧
  decode .screenHeader [0xFE, 0x00, 0x00, 0x9F, 0x76, 0x00, 0x00] = .ok (.scrhdr 0x0000 0x769F, []) ∧
  decode .basToken [0x0E, 0x0A, 0x00] = .ok (.basInt2 false 10, []) ∧
  decode .basToken [0x1C, 0x00, 0x01] = .ok (.basInt2 true 256, []) ∧
  decode .basToken [0x1D, 0x41, 0x15, 0x00, 0x00] = .ok (.basFlt4 0x41 0x15 0x00 0x00, []) ∧
  decode .basToken [0x3A, 0x8F, 0xE6] = .ok (.basColrem, [0xE6]) ∧
  decode .basToken [0xFF, 0x85] = .ok (.basExt 0x85, []) ∧
  decode .basToken [0x1A] = .ok (.basDig 9, []) ∧
  decode .recordLength [0x85] = .ok (.wbLrec 5, []) ∧
  decode .recordLength [0x06] = .ok (.wbRec 6, []) ∧
  decode .lead [0x80, 0x80] = .ok (.wbLmn 0, [0x80]) ∧
  decode .operand [0xE1, 0x1A, 0x00] = .ok (.wbNumh 0x1A, []) ∧
  decode .operand [0xC0, 0x02, 0x01, 0x80] = .ok (.wbLref 0x0102, [0x80])

/-! ### Invocations and steps -/

/-- Every invocation begins in the reset state, at dispatch: `TXT` empty, the flags 0, `RES` not written, every other working
register unset, the ports and the parameters as loaded (R40, R169, R173). The model's choices: an operation begins so in any
state (log 25) and runs at most `itemBound` items (log 14); the operation in progress and the place, and the group and the
stamp's numbers as registers, are its own (log 12). -/
def Obligations.InvocationStartsInResetState : Prop :=
  (∀ (s : State) (o : Operation), exec (decodeTag (.legal o)) s = runItems (itemBound s) (s.enter o)) ∧
  (∀ (s : State) (tag : Tag) (bytes : List Byte) (cfg : Cfg),
    let t := s.load tag bytes cfg
    t.pt = .dispatch ∧ t.tag = tag ∧ t.cfg = cfg ∧ t.p = s.p ∧ ∀ off, t.d.read off = bytes[off]?) ∧
  (∀ (s t : State), ((∃ o, t = s.enter o) ∨ ∃ tag bytes cfg, t = s.load tag bytes cfg) →
    t.txt = [] ∧ t.pend = false ∧ t.lbl = false ∧ t.res = none ∧
    t.cur = none ∧ t.begA = none ∧ t.endA = none ∧ t.w = none ∧ t.rb = none ∧ t.h = none ∧ t.cap = none ∧ t.eff = none ∧
    t.poff = none ∧ (∀ j : Fin 16, t.pal[j] = none) ∧ t.buf = none ∧ t.tbl = none ∧ t.rend = none ∧ t.kc = none ∧
    t.jc = none ∧ t.grp = none ∧ t.sw = none ∧ t.sh = none ∧ t.n = none)

/-- The invariant holds at reset and after every load of well-formed ports (R40, R169). -/
def Obligations.ResetMeetsInvariant : Prop :=
  State.reset.Inv ∧
  ∀ (s : State) (tag : Tag) (bytes : List Byte) (cfg : Cfg), (∀ e, cfg.ext = some e → e.wf) → (s.load tag bytes cfg).Inv

/-- From every state that meets the invariant, a step leads to a state that meets it: byte spaces and buffers keep their
canonical form, the chroma registers their range, `RES` stays empty until the end, and every place finds its registers
written (R26, R37, R40, R86 to R90, R95, R105; log 16, log 17). -/
def Obligations.StepKeepsInvariant : Prop := ∀ s t : State, s.Inv → step s = .next t → t.Inv

/-- In the middle of an invocation no step stops: no rule reads an unset register (R40) or an address below `BEG` (R43). -/
def Obligations.ItemsNeverStop : Prop := ∀ s : State, s.Inv → s.pt ≠ .dispatch → ∃ t, step s = .next t

/-- Every invocation ends, with `RES` written, which R171 derives. That this takes one step, bounded by `itemBound`, is the
model's choice (log 14), and so is the dispatch the block is back at (log 13). -/
def Obligations.EveryInvocationEnds : Prop :=
  ∀ s : State, s.Inv → s.pt = .dispatch → ∃ t r, step s = .next t ∧ t.pt = .dispatch ∧ t.res = some r

/-- A step runs the instruction that the bytes at its place spell (R18, R111, R144, R156). -/
def Obligations.StepRunsDecodedItem : Prop :=
  ∀ (s : State) (bs : List Byte) (i : Instr) (rest : List Byte),
    nextBytes s = .ok bs → decode (placeOf s) bs = .ok (i, rest) → step s = exec i s

/-- A step at bytes that spell no instruction takes the failure of the rule that reads there: a short header (R86, R105,
R109, R134), a wrong signature (R109, R134), a pre-pass outside `D` (R135), an operand outside its record (R148, R149), and
else a read outside `D` (R49), whose `info` no rule fixes (log 8). -/
def Obligations.StepTakesTheFailureOfARejectedItem : Prop :=
  ∀ (s : State) (bs : List Byte) (e : Reject), nextBytes s = .ok bs → decode (placeOf s) bs = .error e →
    (e = .shortHeader → step s = .next (s.failed .malformedHeader s.d.size)) ∧
    (∀ b, e = .badSignature b → step s = .next (s.failed .invalidSignature b.toNat)) ∧
    (∀ p, s.pt = .prepass p → e = .noLengthByte → step s = .next (s.failed .corruptLabelTable p)) ∧
    (∀ cur, s.pt = .operand → s.cur = some cur → e = .truncated → step s = .next (s.failed .truncatedPayload cur)) ∧
    (s.pt ≠ .operand → e = .truncated → ∃ info, step s = .next (s.failed .truncatedPayload info))

/-- R22: no state survives from one invocation to the next, and equal ports and parameters give equal results. Ports that
differ in the container format and in the verbosity alone give equal results too (R25, D62), and the states in which the
invocations end differ in these two fields alone. -/
def Obligations.EqualPortsGiveEqualResults : Prop :=
  (∀ s s' : State, s.pt = .dispatch → s'.pt = .dispatch → s.SamePorts s' → step s = step s') ∧
  (∀ s s' t : State, s.pt = .dispatch → s'.pt = .dispatch → s'.tag = s.tag → s'.d = s.d → s'.p = s.p →
    s'.cfg.double = s.cfg.double → s'.cfg.ext = s.cfg.ext → step s = .next t →
      step s' = .next { t with cfg := s'.cfg })

/-- Running an invocation again, from the state in which it ended, gives the same result (R160) and the same state. That the
end state stands at dispatch again, so that a further step is a further run, is the model's reading (log 13), and so are the
registers the end leaves (log 22). -/
def Obligations.RerunGivesTheSameResult : Prop :=
  ∀ s t : State, s.pt = .dispatch → step s = .next t → t.pt = .dispatch ∧ step t = .next t

/-- No instruction writes a port or a parameter, and every byte of `D` and of `EXT` reads as before (R18, R38, R48, R54). -/
def Obligations.PortsAreNeverWritten : Prop :=
  ∀ (i : Instr) (s t : State), exec i s = .next t →
    t.tag = s.tag ∧ t.p = s.p ∧ t.cfg.container = s.cfg.container ∧ t.cfg.double = s.cfg.double ∧
    t.cfg.verbose = s.cfg.verbose ∧ (∀ off, t.d.read off = s.d.read off) ∧ t.d.size = s.d.size ∧
    (∀ e', t.cfg.ext = some e' → ∃ e, s.cfg.ext = some e ∧ ∀ off, e'.read off = e.read off) ∧
    (t.cfg.ext = none → s.cfg.ext = none)

/-- R157, R158: `raise` and `refuse` set `RES`, discard `TXT` and `BUF`, change nothing else and end the invocation; an
invocation that fails or is refused delivers neither text nor image, and leaves the ports. -/
def Obligations.FailureDeliversNothing : Prop :=
  (∀ (s : State) (e : Err) (info : Int) (n : Nat), s.raise e info = s.failed e info ∧
    runItems n (s.raise e info) = .next (s.raise e info)) ∧
  (∀ (s : State) (u : Reason) (n : Nat), s.refuse u = s.unmodelled u ∧ runItems n (s.refuse u) = .next (s.refuse u)) ∧
  (∀ s t : State, s.pt = .dispatch → step s = .next t →
    ((∃ e info, t.res = some (.fail e info)) ∨ ∃ u, t.res = some (.unmodelled u)) →
    t.txt = [] ∧ t.buf = none ∧ s.SamePorts t)

/-- BAS and WB2 yield `Text` and every other tag yields `Image` when they succeed (R26); a tag outside the set fails (R156),
with the number of the tag as `info`, which is the model's choice (log 7). -/
def Obligations.ResultKindFollowsTag : Prop :=
  ∀ s t : State, s.pt = .dispatch → step s = .next t →
    (∀ x, t.res = some (.text x) → s.tag = .legal .bas ∨ s.tag = .legal .wb2) ∧
    (∀ b, t.res = some (.image b) → s.tag = .legal .stp ∨ ∃ f, s.tag = .legal (.screen f)) ∧
    (∀ k, s.tag = .other k → t.res = some (.fail .unknownFormat k))

/-- The image a screen operation delivers has the kind and the width of its format, the height that R87 chooses from `END`,
and, where it is indexed, the palette that R78 resolves, all doubled on demand (R78, R84, R85, R87, R100 to R104). Where
`RB = 0` the height is one of the two (log 9). The image of a stamp has the header's width, twice its height and two
colours (R106, R108). -/
def Obligations.ImagesHaveTheirGeometry : Prop :=
  ∀ (s t : State) (b : Buf), s.pt = .dispatch → step s = .next t → t.res = some (.image b) →
    let m := if s.cfg.double then 2 else 1
    (∀ f, s.tag = .legal (.screen f) →
      b.kind = kindOf f ∧ b.w = m * widthOf s.p f ∧
      ∃ beg fin, s.d.read16 1 = some beg ∧ s.d.read16 3 = some fin ∧
        (b.h = m * 192 ∨ b.h = m * 212) ∧
        (∀ rb, rb = rowBytes (variantOf f) (widthOf s.p f) → 0 < rb →
          b.h = m * if fin.toNat / rb ≤ 192 then 192 else 212) ∧
        (kindOf f = .rgba → b.pal = []) ∧
        (kindOf f = .idx → b.pal.length = 16 ∧
          ((∀ e, s.cfg.ext = some e → e.wf) → ∃ pal, ResolvedPalette f s beg fin pal ∧ b.pal = pal.toList.map solid))) ∧
    (s.tag = .legal .stp →
      b.kind = .idx ∧ b.pal = [⟨0, 0, 0, 255⟩, ⟨255, 255, 255, 255⟩] ∧
        ∃ sw sh, s.d.read16 0 = some sw ∧ s.d.read16 2 = some sh ∧ b.w = m * sw.toNat ∧ b.h = m * (2 * sh.toNat))

/-- R156: dispatch runs first. A tag outside the set fails before any byte of `D` is read, so whatever `D` is; any of the
eight tags runs its operation. That the `info` is the number of the tag is the model's (log 7). -/
def Obligations.UnknownTagFails : Prop :=
  (∀ (s : State) (n : Nat), exec (.unknown n) s = .next (s.fresh.failed .unknownFormat n)) ∧
  (∀ (s : State) (n : Nat), s.pt = .dispatch → s.tag = .other n → step s = .next (s.fresh.failed .unknownFormat n)) ∧
  (∀ (s : State) (o : Operation), s.pt = .dispatch → s.tag = .legal o → step s = exec (decodeTag (.legal o)) s)

/-- `cur` only increases (R17, R27), once the signature and the pre-pass have set it (R109, R134). -/
def Obligations.CursorOnlyMovesForward : Prop :=
  ∀ (i : Instr) (s t : State) (c c' : Nat), isItem i = true → i ≠ .basFile → (∀ l, i ≠ .wbPrepass l) →
    s.cur = some c → (∀ r, s.rend = some r → c ≤ r) → exec i s = .next t → t.cur = some c' → c ≤ c'

/-- `PEND` and `LBL` after every item of every operation that goes on: what its rule writes, else what it was (R33, R34,
R137, R138, R145 to R149, R151). A blank record clears both by D61; that D61 goes before the Flags: none of R136 is the
model's reading (log 28). -/
def Obligations.FlagsAreWrittenByTheirRules : Prop :=
  ∀ (i : Instr) (s t : State), isItem i = true → exec i s = .next t → t.pt ≠ .dispatch →
    t.pend = pendAfter i s.pend ∧ t.lbl = lblAfter i s.lbl

/-- Every working register but the cursor, the text, the flags and the buffer has its one writer: the preamble (R28), the
resolver (R29, R79), the chroma reader (R37), the stamp header (R105), the pre-pass (R35), the start of a record (R36). -/
def Obligations.RegistersHaveOneWriter : Prop :=
  ∀ (i : Instr) (s t : State), isItem i = true → exec i s = .next t →
    ((∀ x y, i ≠ .scrhdr x y) → t.begA = s.begA ∧ t.endA = s.endA ∧ t.w = s.w ∧ t.rb = s.rb ∧ t.h = s.h ∧
      t.cap = s.cap ∧ t.eff = s.eff ∧ t.poff = s.poff) ∧
    ((∀ x y, i ≠ .scrhdr x y) → (∀ r g b, i ≠ .palword r g b) → t.pal = s.pal) ∧
    ((∀ g0 g1 g2 g3, i ≠ .yjkgrp g0 g1 g2 g3) → t.grp = s.grp ∧ t.kc = s.kc ∧ t.jc = s.jc) ∧
    ((∀ x y, i ≠ .stphdr x y) → t.sw = s.sw ∧ t.sh = s.sh ∧ t.n = s.n) ∧
    ((∀ l, i ≠ .wbPrepass l) → t.tbl = s.tbl) ∧
    ((∀ l, i ≠ .wbRec l) → (∀ l, i ≠ .wbLrec l) → t.rend = s.rend)

/-- `TXT` only grows while an invocation goes on, and only items of BASIC and WBASS2 write it (R15, R31); a failure or a
refusal discards it (R157, R158). -/
def Obligations.TextOnlyGrows : Prop :=
  ∀ (i : Instr) (s t : State), isItem i = true → exec i s = .next t →
    (s.txt <+: t.txt ∨ (t.txt = [] ∧ ((∃ e info, t.res = some (.fail e info)) ∨ ∃ u, t.res = some (.unmodelled u)))) ∧
    ((∃ f, i.place = .groupPixel f) ∨ i.place = .screenHeader ∨ i.place = .paletteWord ∨ i.place = .nibbles ∨
      i.place = .packedRgb ∨ i.place = .group ∨ i.place = .stampHeader ∨ i.place = .stampPair →
      t.txt = s.txt ∨ t.txt = [])

/-! ### Shared operations -/

/-- R81, R82: doubling an indexed or a direct-colour buffer doubles both axes, carries the palette over and replicates every
cell into a 2×2 block. -/
def Obligations.DoublingReplicatesCells : Prop :=
  ∀ b : Buf, b.wf = true →
    (b.kind = .idx → (doubleIdx b).kind = .idx ∧ (doubleIdx b).w = 2 * b.w ∧ (doubleIdx b).h = 2 * b.h ∧
      (doubleIdx b).pal = b.pal ∧ ∀ x y, x < 2 * b.w → y < 2 * b.h → (doubleIdx b).read x y = b.read (x / 2) (y / 2)) ∧
    (b.kind = .rgba → (doubleRgba b).kind = .rgba ∧ (doubleRgba b).w = 2 * b.w ∧ (doubleRgba b).h = 2 * b.h ∧
      ∀ x y, x < 2 * b.w → y < 2 * b.h → (doubleRgba b).read x y = b.read (x / 2) (y / 2))

/-- R83: row duplication keeps the width and the palette, doubles the height and repeats every row. -/
def Obligations.RowDupRepeatsRows : Prop :=
  ∀ b : Buf, b.wf = true → b.kind = .idx →
    (rowDup b).kind = .idx ∧ (rowDup b).w = b.w ∧ (rowDup b).h = 2 * b.h ∧ (rowDup b).pal = b.pal ∧
    ∀ x y, x < b.w → y < 2 * b.h → (rowDup b).read x y = b.read x (y / 2)

/-- `Trim` removes every trailing "0", then a "." that is now last (R126). -/
def Obligations.TrimRemovesZerosAndPoint : Prop :=
  ∀ t : Text, ∃ (k : Nat) (u : Text), t = u ++ List.replicate k 0x30 ∧ u.getLast? ≠ some 0x30 ∧
    trim t = if u.getLast? = some 0x2E then u.dropLast else u

/-- `dec` spells a number in decimal digits that read back as the number, with no leading zeros, and a negative number with
a leading "-" (R14). -/
def Obligations.DecimalSpelling : Prop :=
  (∀ n : Nat, readNumber 10 (dec n) = n ∧ allDecimal (dec n) = true ∧ dec n ≠ [] ∧
    ((dec n).head? = some 0x30 → n = 0 ∧ dec n = [0x30])) ∧
  (∀ n : Int, 0 ≤ n → decInt n = dec n.toNat) ∧
  (∀ n : Int, n < 0 → decInt n = 0x2D :: dec (-n).toNat)

/-- The hexadecimal and the binary literal read back as their value, behind "&H" and "&B"; every code behind the prefix is an
uppercase digit of the base; and 2 or 4 digits and 8 or 16 digits are minimum widths, so that 256 has 3 and 9 (R150). -/
def Obligations.HexAndBinarySpelling : Prop :=
  ∀ v : Word16,
    (∃ t, numHex v = [0x26, 0x48] ++ t ∧ readNumber 16 t = v.toNat ∧ (∀ c ∈ t, c ∈ (digitTable .upper).take 16) ∧
      t.length = (if v.toNat < 256 then 2 else if v.toNat = 256 then 3 else 4)) ∧
    (∃ t, numBin v = [0x26, 0x42] ++ t ∧ readNumber 2 t = v.toNat ∧ (∀ c ∈ t, c ∈ (digitTable .upper).take 2) ∧
      t.length = (if v.toNat < 256 then 8 else if v.toNat = 256 then 9 else 16))

/-- R140: `Pad(c)` emits spaces while `COL < c`, and nothing when `COL ≥ c` already. -/
def Obligations.PadReachesColumn : Prop :=
  ∀ (s : State) (c : Nat),
    (col s.txt < c → s.pad c = { s with txt := s.txt ++ spaces (c - col s.txt) } ∧ col (s.pad c).txt = c) ∧
    (c ≤ col s.txt → s.pad c = s)

/-- R124: a dictionary read is the entry, or outside the dictionary the placeholder "-i-". -/
def Obligations.DictOrPlaceholder : Prop :=
  ∀ (t : List Text) (i : Int),
    (∀ (k : Nat) (e : Text), i = k → t[k]? = some e → dict t i = e) ∧
    (i < 0 ∨ (t.length : Int) ≤ i → dict t i = [0x2D] ++ decInt i ++ [0x2D])

/-- A float with exponent −64 is "0!" whatever its sign and mantissa, and "XXX" is printed for exactly one value
of the exponent field, 0x3E (R127, R132; the second is the spec's own inference from R125). -/
def Obligations.BcdZeroAndMarker : Prop :=
  ∀ (p : Params) (f0 f1 f2 f3 : Byte),
    (f0 &&& 0x7F = 0 → bcdText p f0 f1 f2 f3 = [0x30, 0x21]) ∧
    (bcdText p f0 f1 f2 f3 = [0x58, 0x58, 0x58] ↔ f0 &&& 0x7F = 0x3E)

/-- R128 to R131: every form of a float but "0!" and "XXX", behind "-" where the sign bit is set (R133), over the six mantissa
digits. Exponents −63 to −3 print the first digit, ".", the other five, "E", and the exponent less one as a sign and two
digits. Exponent −1 prints ".0" and the digits, trimmed. Exponents 0 to 6 print the point after that many digits, trimmed;
7 to 14 print the digits, zeros up to the exponent and "!". Exponents 15 to 63 print as the small ones do, with "E+" and the
exponent adjusted by `P.POSEXP_ADJ`, in two digits; under REF that is −1. -/
def Obligations.BcdSmallExponents : Prop :=
  (∀ (p : Params) (f0 f1 f2 f3 : Byte),
    ∃ d1 d2 d3 d4 d5 d6 : Byte,
      AreHexDigits p.hexCase f1 d1 d2 ∧ AreHexDigits p.hexCase f2 d3 d4 ∧ AreHexDigits p.hexCase f3 d5 d6 ∧
      let sg : Text := if f0.getLsbD 7 then [0x2D] else []
      let m : Text := [d1, d2, d3, d4, d5, d6]
      let x := (f0 &&& 0x7F).toNat
      (1 ≤ x → x ≤ 61 → ∃ tens units : Byte,
        bcdText p f0 f1 f2 f3 = sg ++ [d1, 0x2E, d2, d3, d4, d5, d6, 0x45, 0x2D, tens, units] ∧
        allDecimal [tens, units] = true ∧ readNumber 10 [tens, units] + x = 65) ∧
      (x = 63 → bcdText p f0 f1 f2 f3 = sg ++ trim ([0x2E, 0x30] ++ m)) ∧
      (64 ≤ x → x ≤ 70 → bcdText p f0 f1 f2 f3 = sg ++ trim (m.take (x - 64) ++ [0x2E] ++ m.drop (x - 64))) ∧
      (71 ≤ x → x ≤ 78 → bcdText p f0 f1 f2 f3 = sg ++ m ++ List.replicate (x - 70) 0x30 ++ [0x21]) ∧
      (79 ≤ x → ∃ tens units : Byte,
        bcdText p f0 f1 f2 f3 = sg ++ [d1, 0x2E, d2, d3, d4, d5, d6, 0x45, 0x2B, tens, units] ∧
        allDecimal [tens, units] = true ∧
        (p.posExpAdj = .zero → readNumber 10 [tens, units] + 64 = x) ∧
        (p.posExpAdj = .minusOne → readNumber 10 [tens, units] + 65 = x))) ∧
  refParams.posExpAdj = .minusOne

/-- A label's name is the longest run of at most 6 slot bytes that are not zero in their low 7 bits, each so masked, and a
byte it must read is there (R69, R139). -/
def Obligations.LabelReadsMaskedName : Prop :=
  ∀ (d : Memory) (tbl idx : Nat) (name : List (BitVec 7)),
    labelName d tbl idx = some name ↔
      name.length ≤ 6 ∧
      (∀ (k : Nat) (c : BitVec 7), name[k]? = some c →
        c ≠ 0 ∧ ∃ b, d.read (tbl + 8 * idx + k) = some b ∧ c = b.setWidth 7) ∧
      (name.length < 6 → ∃ b, d.read (tbl + 8 * idx + name.length) = some b ∧ b.setWidth 7 = (0 : BitVec 7))

/-! ### Screen and stamp items -/

/-- PALWORD writes one entry of `PAL` through the 3-bit table; after the sixteenth the pixel loop begins (R77, R78). -/
def Obligations.PalwordWritesOneColour : Prop :=
  ∀ (r g b : BitVec 3) (s : State) (src : PalSource) (i : Fin 16), s.pt = .paletteWord src i →
    let s' := { s with pal := s.pal.set i (some ⟨I3 s.p r, I3 s.p g, I3 s.p b⟩) }
    (∀ h : i.val + 1 < 16, exec (.palword r g b) s = .next { s' with pt := .paletteWord src ⟨i.val + 1, h⟩ }) ∧
    (i.val = 15 → ∀ f beg eff buf, s.op = some (.screen f) → s.begA = some beg → s.eff = some eff → s.buf = some buf →
      StartsPixels s' f beg.toNat eff buf (exec (.palword r g b) s))

/-- NIB writes its two nibbles as the indices of two neighbouring cells, and the next address or the end follows (R91, R92).
Where `RB = 0` the place is a free value (log 9). -/
def Obligations.NibDrawsTwoPixels : Prop :=
  ∀ (hi lo : BitVec 4) (s : State) (a rb eff : Nat) (b : Buf),
    s.pt = .nibbles a → s.rb = some rb → s.buf = some b → s.eff = some eff →
    let b' := (b.write (2 * rem a rb) (quot a rb) (.idx hi)).write (2 * rem a rb + 1) (quot a rb) (.idx lo)
    (0 < rb → quot a rb = a / rb ∧ rem a rb = a % rb) ∧
    (a + 1 < eff → exec (.nib hi lo) s = .next { s with buf := some b', pt := .nibbles (a + 1) }) ∧
    (eff ≤ a + 1 → ∀ f, s.op = some (.screen f) → EndsPicture s f b' (exec (.nib hi lo) s))

/-- RGB8 writes one opaque cell through the tables, and the next address or the end follows (R93, R94). -/
def Obligations.Rgb8DrawsOnePixel : Prop :=
  ∀ (g r : BitVec 3) (bl : BitVec 2) (s : State) (a w eff : Nat) (b : Buf),
    s.pt = .packedRgb a → s.w = some w → s.buf = some b → s.eff = some eff →
    let b' := b.write (rem a w) (quot a w) (.rgba ⟨I3 s.p r, I3 s.p g, I2 s.p bl, 255⟩)
    (0 < w → quot a w = a / w ∧ rem a w = a % w) ∧
    (a + 1 < eff → exec (.rgb8 g r bl) s = .next { s with buf := some b', pt := .packedRgb (a + 1) }) ∧
    (eff ≤ a + 1 → ∀ f, s.op = some (.screen f) → EndsPicture s f b' (exec (.rgb8 g r bl) s))

/-- YJKGRP keeps the four bytes of a group and its two signed chroma values, and the group's first pixel follows (R95). -/
def Obligations.YjkgrpReadsChroma : Prop :=
  ∀ (g0 g1 g2 g3 : Byte) (s : State) (a : Nat), s.pt = .group a →
    exec (.yjkgrp g0 g1 g2 g3) s = .next
      { s with
        grp := some #v[g0, g1, g2, g3]
        kc := some (chromaOf g0 g1)
        jc := some (chromaOf g2 g3)
        pt := .groupPixel a 0 }

/-- YAE writes a palette colour, YJK the colour of its luma under the group's chroma, both opaque, and the next pixel, the
next group or the end follows (R96, R97, R99). -/
def Obligations.GroupPixelDrawsOneCell : Prop :=
  ∀ (s : State) (a w : Nat) (k : Fin 4) (b : Buf), s.pt = .groupPixel a k → s.w = some w → s.buf = some b →
    (∀ (idx : BitVec 4) (c : Rgb), s.pal[idx.toNat]'(by have := idx.isLt; omega) = some c →
      DrawsGroupPixel s a k w b ⟨c.r, c.g, c.b, 255⟩ (exec (.yae idx) s)) ∧
    (∀ (y : BitVec 5) (jc kc : Int), s.jc = some jc → s.kc = some kc →
      DrawsGroupPixel s a k w b (lumaColour s.p y jc kc) (exec (.yjk y) s))

/-- STPHDR sets the stamp's size, checks that the payload is there, and starts a black-and-white buffer; a stamp without
pixels is finished at once (R105, R106, R108). -/
def Obligations.StphdrStartsTheStamp : Prop :=
  ∀ (sw sh : Word16) (s : State),
    let n := sw.toNat * sh.toNat
    let s' := { s with sw := some sw.toNat, sh := some sh.toNat, n := some n }
    let b := Buf.new .idx sw.toNat sh.toNat [⟨0, 0, 0, 255⟩, ⟨255, 255, 255, 255⟩]
    (s.d.size < 4 + (n + 3) / 4 → exec (.stphdr sw sh) s = .next (s'.failed .truncatedPayload n)) ∧
    (4 + (n + 3) / 4 ≤ s.d.size → 0 < n → exec (.stphdr sw sh) s = .next { s' with buf := some b, pt := .stampPair 0 }) ∧
    (4 + (n + 3) / 4 ≤ s.d.size → n = 0 → exec (.stphdr sw sh) s = .next (s'.drawn (rowDup b)))

/-- STP0 draws index 1, STP1 index 0 (R106, R107); STPHI is refused, or where `P.STAMP_HIGH` is an action draws the index
that the action names for the value (R107, R158; the shape of the action is log 10). -/
def Obligations.StampPairDrawsOneCell : Prop :=
  ∀ (s : State) (i w n : Nat) (b : Buf), s.pt = .stampPair i → s.sw = some w → s.buf = some b → s.n = some n →
    DrawsStampPixel s i w n b 1 (exec .stp0 s) ∧
    DrawsStampPixel s i w n b 0 (exec .stp1 s) ∧
    ∀ low : BitVec 1,
      (s.p.stampHigh = .refuse → exec (.stphi low) s = .next (s.unmodelled .stampValue)) ∧
      (∀ two three, s.p.stampHigh = .draw two three →
        DrawsStampPixel s i w n b ((if low = 0 then two else three).setWidth 4) (exec (.stphi low) s))

/-- SCRHDR: `BEG > END` fails; a payload that is not all there fails; else the registers, `POFF` among them, and the blank
buffer are set, and where the format has no resolver the pixel loop begins (R28, R86 to R90, R102, R104, R159; that `POFF` is
written behind the payload check is log 15). -/
def Obligations.ScrhdrRunsThePreamble : Prop :=
  ∀ (beg fin : Word16) (s : State) (f : Screen), s.op = some (.screen f) →
    let out := exec (.scrhdr beg fin) s
    let eff := pictureEnd f s fin
    (fin.toNat < beg.toNat →
      out = .next ({ s with begA := some beg, endA := some fin }.failed .malformedHeader beg.toNat)) ∧
    (beg.toNat ≤ fin.toNat → beg.toNat < eff → s.d.size < 7 + (eff - beg.toNat) →
      out = .next ((s.afterHeader f beg fin).failed .truncatedPayload eff)) ∧
    (beg.toNat ≤ fin.toNat → eff ≤ beg.toNat ∨ 7 + (eff - beg.toNat) ≤ s.d.size → resolvesPalette f = false →
      StartsPixels (s.afterPreamble f beg fin) f beg.toNat eff (blankPicture f s fin) out)

/-- SCRHDR of SC5, SC7 and S10 goes on with the resolver: the embedded palette where `END ≥ POFF`, else the external one
where there is one, else the default; a source whose 32 bytes are not all there fails (R78). The model's choices: `POFF` is
written behind the payload check (log 15), and the palette of the new buffer is empty until the pixel loop is over
(log 27). -/
def Obligations.ScrhdrResolvesThePalette : Prop :=
  ∀ (beg fin : Word16) (s : State) (f : Screen), s.op = some (.screen f) → resolvesPalette f = true →
    beg.toNat ≤ fin.toNat → pictureEnd f s fin ≤ beg.toNat ∨ 7 + (pictureEnd f s fin - beg.toNat) ≤ s.d.size →
    let out := exec (.scrhdr beg fin) s
    let s' := s.afterPreamble f beg fin
    (∀ po, paletteOffsetOf s.p f = some po → po.toNat ≤ fin.toNat →
      (po.toNat < beg.toNat → out = .next (s'.failed .truncatedPayload po.toNat)) ∧
      (beg.toNat ≤ po.toNat → s.d.size < 7 + (po.toNat - beg.toNat) + 32 →
        out = .next (s'.failed .truncatedPayload (7 + (po.toNat - beg.toNat) : Nat))) ∧
      (beg.toNat ≤ po.toNat → 7 + (po.toNat - beg.toNat) + 32 ≤ s.d.size →
        out = .next { s' with pt := .paletteWord (.embedded (7 + (po.toNat - beg.toNat))) 0 })) ∧
    ((∀ po, paletteOffsetOf s.p f = some po → fin.toNat < po.toNat) →
      (∀ e, s.cfg.ext = some e → e.size < 32 → out = .next (s'.failed .truncatedPayload e.size)) ∧
      (∀ e, s.cfg.ext = some e → 32 ≤ e.size → out = .next { s' with pt := .paletteWord .external 0 }) ∧
      (s.cfg.ext = none →
        StartsPixels { s' with pal := s.p.defpal.map some } f beg.toNat (pictureEnd f s fin) (blankPicture f s fin) out))

/-! ### BASIC items -/

/-- BAS.FILE sets `cur` to 1 and the first line begins; BAS.EOL emits `NL`, takes the zero byte, and the next line begins
(R109, R110). -/
def Obligations.BasLinesBegin : Prop :=
  (∀ s : State, StartsLine s s.txt 1 (exec .basFile s)) ∧
  (∀ (s : State) (c : Nat), s.cur = some c → StartsLine s (s.txt ++ [NL]) (c + 1) (exec .basEol s))

/-- The numeric literals print in decimal, the float through its formatter; each moves past its bytes (R113, R114, R115).
BAS.BCD as an item of its own is the model's (log 18). -/
def Obligations.BasLiteralsPrint : Prop :=
  ∀ (s : State) (c : Nat), s.cur = some c →
    (∀ const v, exec (.basInt2 const v) s = .next (s.afterToken (dec v.toNat) (c + 3))) ∧
    (∀ v, exec (.basInt1 v) s = .next (s.afterToken (dec v.toNat) (c + 2))) ∧
    (∀ f0 f1 f2 f3, exec (.basFlt4 f0 f1 f2 f3) s = .next (s.afterToken (bcdText s.p f0 f1 f2 f3) (c + 5))) ∧
    (∀ f0 f1 f2 f3, exec (.basBcd f0 f1 f2 f3) s = .next (s.afterToken (bcdText s.p f0 f1 f2 f3) (c + 4)))

/-- A colon before REM or ELSE prints nothing; the keyword tokens print their dictionary entry (R116 to R119). -/
def Obligations.BasKeywordsPrint : Prop :=
  ∀ (s : State) (c : Nat), s.cur = some c →
    exec .basColrem s = .next (s.afterToken [] (c + 2)) ∧
    exec .basColelse s = .next (s.afterToken [] (c + 1)) ∧
    (∀ e, exec (.basExt e) s = .next (s.afterToken (dict s.p.basExt ((e.toNat : Int) - 0x81)) (c + 2))) ∧
    (∀ b, exec (.basPrim b) s = .next (s.afterToken (dict s.p.basPrim ((b.toNat : Int) - 0x81)) (c + 1)))

/-- Strings are copied with their quotes, characters as they are, and digit tokens print their digit (R120 to R122). -/
def Obligations.BasCharactersPrint : Prop :=
  ∀ (s : State) (c : Nat), s.cur = some c →
    (∀ body, exec (.basStr body true) s = .next (s.afterToken (0x22 :: (body ++ [0x22])) (c + body.length + 2))) ∧
    (∀ body, exec (.basStr body false) s = .next (s.afterToken (0x22 :: body) (c + body.length + 1))) ∧
    (∀ b, exec (.basChr b) s = .next (s.afterToken [b] (c + 1))) ∧
    (∀ d, exec (.basDig d) s = .next (s.afterToken (dec d.toNat) (c + 1)))

/-- A byte that no class lists is refused with the byte and `cur`, in BASIC and among the operands of WBASS2; where the
parameter is an action, its text is printed for the byte (R123, R152, R158; the shape of the action is log 10). Only that
action of WBASS2 looks at `REND`, which no BASIC invocation writes (R36). -/
def Obligations.UnlistedBytesAreRefused : Prop :=
  ∀ (s : State) (b : Byte) (c : Nat), s.cur = some c →
    (s.p.basUnlisted = .refuse → exec (.basUnl b) s = .next (s.unmodelled (.basUnlistedByte b c))) ∧
    (∀ t, s.p.basUnlisted = .emit t → exec (.basUnl b) s = .next (s.afterToken t (c + 1))) ∧
    (s.p.wbUnlisted = .refuse → exec (.wbTunl b) s = .next (s.unmodelled (.wbUnlistedToken b c))) ∧
    (∀ t r, s.p.wbUnlisted = .emit t → s.rend = some r →
      exec (.wbTunl b) s = .next (s.afterOperand t s.pend (c + 1) r))

/-! ### WBASS2 items -/

/-- WB.FILE starts the pre-pass at offset 1; WB.PREPASS skips a record or fixes `TBL` and starts the main pass; WB.END
delivers the text; WB.BLANK prints an empty line and clears `PEND` and `LBL` (R134 to R136, D61). That WB.BLANK clears them in spite
of the Flags: none of R136 is the model's reading (log 28); that the pre-pass walks with `p` and leaves `cur` as it was until
R134 sets it, where R27 and R40 name `cur`, is the model's choice (log 29). -/
def Obligations.WbPassesOverRecords : Prop :=
  (∀ s : State, exec .wbFile s = .next { s with pt := .prepass 1 }) ∧
  (∀ (s : State) (p : Nat), s.pt = .prepass p →
    exec (.wbPrepass 0xFF) s = .next { s with tbl := some (p + 1), cur := some 1, pt := .recordLength }) ∧
  (∀ (s : State) (p : Nat) (l : Byte), s.pt = .prepass p → l ≠ 0xFF →
    exec (.wbPrepass l) s = .next { s with pt := .prepass (p + 1 + l.toNat % 128) }) ∧
  (∀ s : State, exec .wbEnd s = .next (s.listed s.txt)) ∧
  (∀ (s : State) (c : Nat), s.cur = some c →
    exec .wbBlank s = .next (({ s with pend := false, lbl := false } : State).afterRecord [] (c + 1)))

/-- A record clears the flags and sets `REND`; with a label it prints the name and a colon and sets `LBL`, and ends at once
when nothing is left; an index that does not fit fails where it stands, a label outside `D` behind the index (R137 to R139). -/
def Obligations.WbRecordsOpen : Prop :=
  ∀ (s : State) (c : Nat) (l : BitVec 7), s.cur = some c →
    let s' := { s with pend := false, lbl := false, cur := some (c + 1), rend := some (c + 1 + l.toNat) }
    exec (.wbRec l) s = .next { s' with pt := .lead } ∧
    (l.toNat < 2 → exec (.wbLrec l) s = .next (s'.failed .truncatedPayload (c + 1 : Nat))) ∧
    (2 ≤ l.toNat → s.d.read16 (c + 1) = none →
      ∃ info, exec (.wbLrec l) s = .next (s'.failed .truncatedPayload info)) ∧
    ∀ idx tbl, 2 ≤ l.toNat → s.d.read16 (c + 1) = some idx → s.tbl = some tbl →
      (labelName s.d tbl idx.toNat = none →
        ∃ info, exec (.wbLrec l) s = .next ({ s' with cur := some (c + 3) }.failed .truncatedPayload info)) ∧
      (∀ name, labelName s.d tbl idx.toNat = some name → l.toNat = 2 →
        exec (.wbLrec l) s = .next ({ s' with lbl := true }.afterRecord (nameText name ++ [0x3A]) (c + 3))) ∧
      (∀ name, labelName s.d tbl idx.toNat = some name → 2 < l.toNat →
        exec (.wbLrec l) s = .next
          { s' with lbl := true, cur := some (c + 3), txt := s.txt ++ (nameText name ++ [0x3A]), pt := .lead })

/-- The leads: a comment line, at column 8 after a label; a mnemonic at column 8, and column 14 where bytes remain; any
other lead is refused, or prints the text of the action and uses up its record (R141 to R143, R158; log 10). -/
def Obligations.WbLeadsPrint : Prop :=
  ∀ (s : State) (c r : Nat), s.cur = some c → s.rend = some r →
    (∀ text, exec (.wbLcmt text) s =
      .next (s.afterRecord ((if s.lbl then spaces (8 - col s.txt) else []) ++ 0x3B :: text) r)) ∧
    (∀ m, let t := spaces (8 - col s.txt) ++ dict s.p.wbMnem m.toNat
      exec (.wbLmn m) s =
        .next (s.afterOperand (t ++ if c + 1 < r then spaces (14 - col (s.txt ++ t)) else []) s.pend (c + 1) r)) ∧
    (∀ b, s.p.wbUnlisted = .refuse → exec (.wbLunl b) s = .next (s.unmodelled (.wbUnlistedLead b c))) ∧
    (∀ b t, s.p.wbUnlisted = .emit t → exec (.wbLunl b) s = .next (s.afterRecord t r))

/-- A trailing comment stands at column 30 or one space on, and drops an owed space; an operator takes no space and drops
the owed one (R145, R146). -/
def Obligations.WbCommentsAndOperatorsPrint : Prop :=
  ∀ (s : State) (c r : Nat), s.cur = some c → s.rend = some r →
    (∀ text, exec (.wbCmt text) s = .next ({ s with pend := false }.afterRecord
      ((if col s.txt < 30 then spaces (30 - col s.txt) else [SP]) ++ 0x3B :: text) r)) ∧
    (∀ b : Byte, exec (.wbOp b) s =
      .next (s.afterOperand (dict s.p.wbOp (((b.toNat / 2 : Nat) : Int) - 1)) false (c + 1) r))

/-- The operand atoms print the space they owe, then their text, and owe the next one: strings, numbers, logical operators,
conditions, registers (R147, R149 to R151). -/
def Obligations.WbAtomsPrint : Prop :=
  ∀ (s : State) (c r : Nat), s.cur = some c → s.rend = some r →
    (∀ body, exec (.wbStr body true) s =
      .next (s.afterOperand (owedSpace s.pend ++ 0x22 :: (body ++ [0x22])) true (c + body.length + 2) r)) ∧
    (∀ body, exec (.wbStr body false) s =
      .next (s.afterOperand (owedSpace s.pend ++ 0x22 :: body) true (c + body.length + 1) r)) ∧
    (∀ v, exec (.wbNumd v) s = .next (s.afterOperand (owedSpace s.pend ++ dec v.toNat) true (c + 3) r)) ∧
    (∀ v, exec (.wbNumh v) s = .next (s.afterOperand (owedSpace s.pend ++ numHex v) true (c + 3) r)) ∧
    (∀ v, exec (.wbNumb v) s = .next (s.afterOperand (owedSpace s.pend ++ numBin v) true (c + 3) r)) ∧
    (∀ b, exec (.wbLogic b) s =
      .next (s.afterOperand (owedSpace s.pend ++ dict s.p.wbLogic ((b.toNat : Int) - 153)) true (c + 1) r)) ∧
    (∀ b, exec (.wbCond b) s =
      .next (s.afterOperand (owedSpace s.pend ++ dict s.p.wbCond ((b.toNat : Int) - 144)) true (c + 1) r)) ∧
    (∀ k, exec (.wbReg k) s =
      .next (s.afterOperand (owedSpace s.pend ++ dict s.p.wbReg k.toNat) true (c + 1) r))

/-- A label reference prints the label's name as an atom, without a colon; a label outside `D` fails (R139, R148). WB.SLOT
as an item of its own is the model's (log 18). -/
def Obligations.WbLabelsPrint : Prop :=
  ∀ (s : State) (c r : Nat), s.cur = some c → s.rend = some r →
    (∀ (idx : Word16) (tbl : Nat) (name : List (BitVec 7)), s.tbl = some tbl → labelName s.d tbl idx.toNat = some name →
      exec (.wbLref idx) s = .next (s.afterOperand (owedSpace s.pend ++ nameText name) true (c + 3) r)) ∧
    (∀ (idx : Word16) (tbl : Nat), s.tbl = some tbl → labelName s.d tbl idx.toNat = none →
      ∃ info, exec (.wbLref idx) s = .next (s.failed .truncatedPayload info)) ∧
    (∀ name, exec (.wbSlot name) s = .next (s.afterOperand (nameText name) s.pend c r))

/-! ### Whole operations -/

/-- SC5 and SC7 deliver the picture that their header, their nibbles and their palette spell, cell by cell (R85 to R92,
R78, R100, R101). -/
def Obligations.NibblePicturesAreDrawn : Prop :=
  ∀ (s : State) (beg fin : Word16) (pal : Vector Rgb 16),
    (ScreenInput .sc5 s beg fin → ResolvedPalette .sc5 s beg fin pal →
      Draws s (exec .sc5 s) .idx s.p.wSc5 (pictureHeight .sc5 s fin) (pal.toList.map solid) (cellA .sc5 s beg fin)) ∧
    (ScreenInput .sc7 s beg fin → ResolvedPalette .sc7 s beg fin pal →
      Draws s (exec .sc7 s) .idx s.p.wSc7 (pictureHeight .sc7 s fin) (pal.toList.map solid) (cellA .sc7 s beg fin))

/-- SC8 delivers the picture that its header and its packed colours spell, cell by cell, whatever `EXT` is (R85 to R90,
R93, R94, R102). -/
def Obligations.PackedPicturesAreDrawn : Prop :=
  ∀ (s : State) (beg fin : Word16), ScreenInput .sc8 s beg fin →
    Draws s (exec .sc8 s) .rgba s.p.wSc8 (pictureHeight .sc8 s fin) [] (cellB .sc8 s beg fin)

/-- S10 and S12 deliver the picture that their header and their groups spell, cell by cell; S10 with the escape into its
palette, S12 without (R85 to R90, R95 to R99, R103, R104). -/
def Obligations.LumaPicturesAreDrawn : Prop :=
  ∀ (s : State) (beg fin : Word16) (pal : Vector Rgb 16),
    (ScreenInput .s10 s beg fin → ResolvedPalette .s10 s beg fin pal →
      Draws s (exec .s10 s) .rgba s.p.wS10 (pictureHeight .s10 s fin) [] (cellC .s10 s beg fin pal)) ∧
    (ScreenInput .s12 s beg fin →
      Draws s (exec .s12 s) .rgba s.p.wS12 (pictureHeight .s12 s fin) [] (cellC .s12 s beg fin pal))

/-- STP delivers the stamp whose pairs are all 0 or 1, every row twice, value 0 as white and 1 as black (R61, R105 to
R108). -/
def Obligations.StampsAreDrawn : Prop :=
  ∀ (s : State) (sw sh : Word16), s.d.wf → s.d.read16 0 = some sw → s.d.read16 2 = some sh →
    4 + (sw.toNat * sh.toNat + 3) / 4 ≤ s.d.size → (∀ i, i < sw.toNat * sh.toNat → stampValue s i < 2) →
    Draws s (exec .stp s) .idx sw.toNat (2 * sh.toNat) [⟨0, 0, 0, 255⟩, ⟨255, 255, 255, 255⟩]
      fun x y => .idx (if stampValue s (y / 2 * sw.toNat + x) = 0 then 1 else 0)

/-- BAS lists a program of lines: for each line its number, a space, the text of its tokens and `NL`, colons, strings without
closing quote and unlisted bytes that an action spells among them. The program ends at the link 0x0000, whatever stands
behind it, where fewer than two bytes are left for a link (D25), or inside a last line, which is listed too (D28) (R62, R72,
R109 to R123). That the action which replaces the refusal of an unlisted byte prints a text for that one byte is the model's
choice (log 10): R123 and R158 give the refusal, and name no action. -/
def Obligations.BasicProgramsAreListed : Prop :=
  ∀ (s : State) (lines : List BasLine) (ending : BasEnding),
    (∀ l ∈ lines, l.Fits s.p [0x00]) → ending.Fits s.p →
    s.d = Memory.ofBytes (0xFF :: (lines.flatMap BasLine.bytes ++ ending.bytes)) →
    ∃ t, exec .bas s = .next t ∧ s.SamePorts t ∧ t.pt = .dispatch ∧
      t.res = some (.text (lines.flatMap (BasLine.text s.p) ++ ending.text s.p))

/-- WB2 lists a program of records whose operands stand for themselves, the labels read from the table behind its end marker:
columns 8, 14 and 30, one space between atoms, none at an operator (R65 to R69, R73, R134 to R151). -/
def Obligations.AssemblerProgramsAreListed : Prop :=
  ∀ (s : State) (records : List WbRecord) (table : List Byte) (names : Word16 → Text),
    (∀ r ∈ records, r.fits = true) →
    s.d = Memory.ofBytes (0xFD :: (records.flatMap WbRecord.bytes ++ [0xFF] ++ table)) →
    (∀ r ∈ records, ∀ idx ∈ r.labels, ∃ name,
      labelName s.d (2 + (records.flatMap WbRecord.bytes).length) idx.toNat = some name ∧ names idx = nameText name) →
    ∃ t, exec .wb2 s = .next t ∧ s.SamePorts t ∧ t.pt = .dispatch ∧
      t.res = some (.text (records.flatMap (WbRecord.text s.p names)))

end
end

