-- ==== Sys2Proof/Laws/Buffer.lean ====
section
/-! SUPPORT. The pixel buffer: its canonical form, kept by every operation over it, and read after write. -/

namespace Sys2Proof.Machine

/-- The numbers of a cell list rise strictly. -/
abbrev CellsRise (cells : List (Nat × Pixel)) : Prop := cells.Pairwise fun c e => c.1 < e.1

theorem cellsWf_iff (fill : Pixel) (bound : Nat) (cells : List (Nat × Pixel)) :
    cellsWf fill bound cells = true ↔ CellsRise cells ∧ ∀ c ∈ cells, c.1 < bound ∧ c.2 ≠ fill := by
  simp [cellsWf]

theorem mem_setCell {fill : Pixel} {k : Nat} {v : Pixel} {cells : List (Nat × Pixel)} {c : Nat × Pixel}
    (h : c ∈ setCell fill k v cells) : c ∈ cells ∨ (c = (k, v) ∧ v ≠ fill) := by
  induction cells with
  | nil =>
    simp only [setCell] at h
    split at h
    · simp at h
    · right; simp_all
  | cons d rest ih =>
    obtain ⟨j, u⟩ := d
    simp only [setCell] at h
    split at h
    · split at h
      · exact .inl h
      · rcases List.mem_cons.1 h with rfl | h
        · right; simp_all
        · exact .inl h
    · split at h
      · split at h
        · exact .inl (List.mem_cons_of_mem _ h)
        · rcases List.mem_cons.1 h with rfl | h
          · right; simp_all
          · exact .inl (List.mem_cons_of_mem _ h)
      · rcases List.mem_cons.1 h with rfl | h
        · simp
        · rcases ih h with h | h
          · exact .inl (List.mem_cons_of_mem _ h)
          · exact .inr h

theorem setCell_rise {fill : Pixel} {cells : List (Nat × Pixel)} (k : Nat) (v : Pixel) (h : CellsRise cells) :
    CellsRise (setCell fill k v cells) := by
  induction cells with
  | nil => simp only [setCell]; split <;> simp [CellsRise]
  | cons d rest ih =>
    obtain ⟨j, u⟩ := d
    obtain ⟨h1, h2⟩ := List.pairwise_cons.1 h
    simp only [setCell]
    split
    · rename_i hkj
      split
      · exact h
      · refine List.pairwise_cons.2 ⟨fun e he => ?_, h⟩
        rcases List.mem_cons.1 he with rfl | he
        · exact hkj
        · exact Nat.lt_trans hkj (h1 e he)
    · split
      · rename_i hkj
        subst hkj
        split
        · exact h2
        · exact List.pairwise_cons.2 ⟨fun e he => h1 e he, h2⟩
      · refine List.pairwise_cons.2 ⟨fun e he => ?_, ih h2⟩
        rcases mem_setCell he with he | ⟨rfl, -⟩
        · exact h1 e he
        · show j < k; omega

theorem setCell_wf {fill : Pixel} {bound : Nat} {cells : List (Nat × Pixel)} {k : Nat} (v : Pixel) (hk : k < bound)
    (h : cellsWf fill bound cells = true) : cellsWf fill bound (setCell fill k v cells) = true := by
  rw [cellsWf_iff] at h ⊢
  refine ⟨setCell_rise k v h.1, fun c hc => ?_⟩
  rcases mem_setCell hc with hc | ⟨rfl, hv⟩
  · exact h.2 c hc
  · exact ⟨hk, hv⟩

theorem lookup_eq_none_of_lt {cells : List (Nat × Pixel)} {k : Nat} (h : ∀ c ∈ cells, k < c.1) :
    cells.lookup k = none := by
  induction cells with
  | nil => rfl
  | cons d rest ih =>
    obtain ⟨j, u⟩ := d
    have hj : k < j := h (j, u) (by simp)
    have : (k == j) = false := by simp; omega
    rw [List.lookup_cons, this]
    exact ih fun c hc => h c (List.mem_cons_of_mem _ hc)

/-- Read after write, cell by cell: the written cell holds the value, every other cell what it held. -/
theorem cellAt_setCell {fill : Pixel} {cells : List (Nat × Pixel)} (k : Nat) (v : Pixel) (i : Nat)
    (h : CellsRise cells) :
    cellAt fill (setCell fill k v cells) i = if i = k then v else cellAt fill cells i := by
  induction cells with
  | nil =>
    simp only [setCell, cellAt]
    by_cases hv : v = fill
    · simp [hv]
    · by_cases hi : i = k
      · simp [hv, hi]
      · have : (i == k) = false := by simpa using hi
        simp [hv, hi, List.lookup_cons, this]
  | cons d rest ih =>
    obtain ⟨j, u⟩ := d
    obtain ⟨h1, h2⟩ := List.pairwise_cons.1 h
    have ih := ih h2
    have rest_none : rest.lookup j = none := lookup_eq_none_of_lt fun c hc => h1 c hc
    simp only [setCell]
    by_cases hkj : k < j
    · have hno : ((j, u) :: rest).lookup k = none :=
        lookup_eq_none_of_lt fun c hc => by
          rcases List.mem_cons.1 hc with rfl | hc
          · exact hkj
          · exact Nat.lt_trans hkj (h1 c hc)
      by_cases hv : v = fill
      · by_cases hi : i = k
        · subst hi; simp [hkj, hv, cellAt, hno]
        · simp [hkj, hv, hi]
      · by_cases hi : i = k
        · subst hi; simp [hkj, hv, cellAt]
        · have hb : (i == k) = false := by simpa using hi
          simp [hkj, hv, hi, cellAt, List.lookup_cons, hb]
    · by_cases hkj2 : k = j
      · subst hkj2
        by_cases hv : v = fill
        · by_cases hi : i = k
          · subst hi; simp [hv, cellAt, rest_none]
          · have hb : (i == k) = false := by simpa using hi
            simp [hv, hi, cellAt, List.lookup_cons, hb]
        · by_cases hi : i = k
          · subst hi; simp [hv, cellAt]
          · have hb : (i == k) = false := by simpa using hi
            simp [hv, hi, cellAt, List.lookup_cons, hb]
      · simp only [hkj, hkj2, if_false]
        by_cases hij : i = j
        · subst hij
          have hik : ¬ i = k := fun e => hkj2 e.symm
          simp [cellAt, hik]
        · have hb : (i == j) = false := by simpa using hij
          simpa [cellAt, List.lookup_cons, hb] using ih

theorem cell_number_lt {w h x y : Nat} (hx : x < w) (hy : y < h) : y * w + x < w * h := by
  calc y * w + x < y * w + w := by omega
    _ = (y + 1) * w := by ring
    _ ≤ h * w := Nat.mul_le_mul_right w hy
    _ = w * h := Nat.mul_comm h w

theorem new_wf (kind : Kind) (w h : Nat) (pal : List Rgba) : (Buf.new kind w h pal).wf = true := by
  simp [Buf.wf, Buf.new, cellsWf]

@[simp] theorem write_w (b : Buf) (x y : Nat) (v : Pixel) : (b.write x y v).w = b.w := by
  simp only [Buf.write]; split <;> rfl

@[simp] theorem write_h (b : Buf) (x y : Nat) (v : Pixel) : (b.write x y v).h = b.h := by
  simp only [Buf.write]; split <;> rfl

@[simp] theorem write_kind (b : Buf) (x y : Nat) (v : Pixel) : (b.write x y v).kind = b.kind := by
  simp only [Buf.write]; split <;> rfl

@[simp] theorem write_pal (b : Buf) (x y : Nat) (v : Pixel) : (b.write x y v).pal = b.pal := by
  simp only [Buf.write]; split <;> rfl

/-- `PixWrite` keeps the canonical form (R50). -/
theorem write_wf {b : Buf} (x y : Nat) (v : Pixel) (h : b.wf = true) : (b.write x y v).wf = true := by
  simp only [Buf.write]
  split
  · rename_i hxy
    exact setCell_wf v (cell_number_lt hxy.1 hxy.2) h
  · exact h

theorem cell_number_inj {w x y x' y' : Nat} (hx : x < w) (hx' : x' < w) (h : y * w + x = y' * w + x') :
    x = x' ∧ y = y' := by
  have hy : y = y' := by
    have h1 : (y * w + x) / w = y := by
      rw [Nat.mul_comm, Nat.mul_add_div (by omega), Nat.div_eq_of_lt hx]; omega
    have h2 : (y' * w + x') / w = y' := by
      rw [Nat.mul_comm, Nat.mul_add_div (by omega), Nat.div_eq_of_lt hx']; omega
    rw [← h1, ← h2, h]
  subst hy
  exact ⟨by omega, rfl⟩

/-- Read after write: the cell inside the geometry holds the value, every other cell what it held (R15, R50). -/
theorem read_write {b : Buf} (hb : b.wf = true) (x y x' y' : Nat) (v : Pixel) :
    (b.write x y v).read x' y' = if x' = x ∧ y' = y ∧ x < b.w ∧ y < b.h then some v else b.read x' y' := by
  have hrise : CellsRise b.cells := ((cellsWf_iff _ _ _).1 hb).1
  simp only [Buf.write]
  by_cases hin : x < b.w ∧ y < b.h
  · rw [if_pos hin]
    simp only [Buf.read]
    by_cases hr : x' < b.w ∧ y' < b.h
    · rw [if_pos hr, if_pos hr, cellAt_setCell _ _ _ hrise]
      by_cases he : x' = x ∧ y' = y
      · obtain ⟨rfl, rfl⟩ := he
        simp [hin]
      · have hne : ¬ y' * b.w + x' = y * b.w + x := fun e => he (cell_number_inj hr.1 hin.1 e)
        have he2 : ¬ (x' = x ∧ y' = y ∧ x < b.w ∧ y < b.h) := fun e => he ⟨e.1, e.2.1⟩
        rw [if_neg hne, if_neg he2]
    · rw [if_neg hr, if_neg hr, if_neg]
      rintro ⟨rfl, rfl, h⟩
      exact hr h
  · rw [if_neg hin, if_neg]
    rintro ⟨-, -, h⟩
    exact hin h

theorem foldl_write_wf (q : List (Nat × Nat)) (v : Pixel) {b : Buf} (h : b.wf = true) :
    (q.foldl (fun acc c => acc.write c.1 c.2 v) b).wf = true := by
  induction q generalizing b with
  | nil => exact h
  | cons c rest ih => exact ih (write_wf _ _ _ h)

/-- Doubling and row duplication give the canonical form. -/
theorem scale_wf (sx sy : Nat) (b : Buf) : (b.scale sx sy).wf = true := by
  simp only [Buf.scale]
  suffices h : ∀ (cells : List (Nat × Pixel)) (acc : Buf), acc.wf = true →
      (cells.foldl (fun acc c =>
        (blockCells sx sy (c.1 % b.w) (c.1 / b.w)).foldl (fun acc' q => acc'.write q.1 q.2 c.2) acc) acc).wf = true from
    h _ _ (new_wf _ _ _ _)
  intro cells
  induction cells with
  | nil => exact fun _ h => h
  | cons c rest ih => exact fun acc h => ih _ (foldl_write_wf _ _ h)

theorem postDouble_wf (double : Bool) {b : Buf} (h : b.wf = true) : (postDouble double b).wf = true := by
  simp only [postDouble]
  split
  · split <;> exact scale_wf _ _ _
  · exact h

end Sys2Proof.Machine
end

