-- ==== Sys2Proof/Laws/State.lean ====
section
/-! SUPPORT. One lemma for each field of State under each named update: no later proof unfolds a record update. -/

namespace Sys2Proof.Machine

@[simp] theorem State.emit_tag (s : State) (t : Text) : (s.emit t).tag = s.tag := rfl
@[simp] theorem State.emit_d (s : State) (t : Text) : (s.emit t).d = s.d := rfl
@[simp] theorem State.emit_cfg (s : State) (t : Text) : (s.emit t).cfg = s.cfg := rfl
@[simp] theorem State.emit_p (s : State) (t : Text) : (s.emit t).p = s.p := rfl
@[simp] theorem State.emit_res (s : State) (t : Text) : (s.emit t).res = s.res := rfl
@[simp] theorem State.emit_op (s : State) (t : Text) : (s.emit t).op = s.op := rfl
@[simp] theorem State.emit_pt (s : State) (t : Text) : (s.emit t).pt = s.pt := rfl
@[simp] theorem State.emit_cur (s : State) (t : Text) : (s.emit t).cur = s.cur := rfl
@[simp] theorem State.emit_txt (s : State) (t : Text) : (s.emit t).txt = s.txt ++ t := rfl
@[simp] theorem State.emit_pend (s : State) (t : Text) : (s.emit t).pend = s.pend := rfl
@[simp] theorem State.emit_lbl (s : State) (t : Text) : (s.emit t).lbl = s.lbl := rfl
@[simp] theorem State.emit_tbl (s : State) (t : Text) : (s.emit t).tbl = s.tbl := rfl
@[simp] theorem State.emit_rend (s : State) (t : Text) : (s.emit t).rend = s.rend := rfl
@[simp] theorem State.emit_begA (s : State) (t : Text) : (s.emit t).begA = s.begA := rfl
@[simp] theorem State.emit_endA (s : State) (t : Text) : (s.emit t).endA = s.endA := rfl
@[simp] theorem State.emit_w (s : State) (t : Text) : (s.emit t).w = s.w := rfl
@[simp] theorem State.emit_rb (s : State) (t : Text) : (s.emit t).rb = s.rb := rfl
@[simp] theorem State.emit_h (s : State) (t : Text) : (s.emit t).h = s.h := rfl
@[simp] theorem State.emit_cap (s : State) (t : Text) : (s.emit t).cap = s.cap := rfl
@[simp] theorem State.emit_eff (s : State) (t : Text) : (s.emit t).eff = s.eff := rfl
@[simp] theorem State.emit_poff (s : State) (t : Text) : (s.emit t).poff = s.poff := rfl
@[simp] theorem State.emit_pal (s : State) (t : Text) : (s.emit t).pal = s.pal := rfl
@[simp] theorem State.emit_buf (s : State) (t : Text) : (s.emit t).buf = s.buf := rfl
@[simp] theorem State.emit_kc (s : State) (t : Text) : (s.emit t).kc = s.kc := rfl
@[simp] theorem State.emit_jc (s : State) (t : Text) : (s.emit t).jc = s.jc := rfl
@[simp] theorem State.emit_grp (s : State) (t : Text) : (s.emit t).grp = s.grp := rfl
@[simp] theorem State.emit_sw (s : State) (t : Text) : (s.emit t).sw = s.sw := rfl
@[simp] theorem State.emit_sh (s : State) (t : Text) : (s.emit t).sh = s.sh := rfl
@[simp] theorem State.emit_n (s : State) (t : Text) : (s.emit t).n = s.n := rfl

@[simp] theorem State.pad_tag (s : State) (c : Nat) : (s.pad c).tag = s.tag := rfl
@[simp] theorem State.pad_d (s : State) (c : Nat) : (s.pad c).d = s.d := rfl
@[simp] theorem State.pad_cfg (s : State) (c : Nat) : (s.pad c).cfg = s.cfg := rfl
@[simp] theorem State.pad_p (s : State) (c : Nat) : (s.pad c).p = s.p := rfl
@[simp] theorem State.pad_res (s : State) (c : Nat) : (s.pad c).res = s.res := rfl
@[simp] theorem State.pad_op (s : State) (c : Nat) : (s.pad c).op = s.op := rfl
@[simp] theorem State.pad_pt (s : State) (c : Nat) : (s.pad c).pt = s.pt := rfl
@[simp] theorem State.pad_cur (s : State) (c : Nat) : (s.pad c).cur = s.cur := rfl
@[simp] theorem State.pad_txt (s : State) (c : Nat) : (s.pad c).txt = s.txt ++ List.replicate (c - col s.txt) SP := rfl
@[simp] theorem State.pad_pend (s : State) (c : Nat) : (s.pad c).pend = s.pend := rfl
@[simp] theorem State.pad_lbl (s : State) (c : Nat) : (s.pad c).lbl = s.lbl := rfl
@[simp] theorem State.pad_tbl (s : State) (c : Nat) : (s.pad c).tbl = s.tbl := rfl
@[simp] theorem State.pad_rend (s : State) (c : Nat) : (s.pad c).rend = s.rend := rfl
@[simp] theorem State.pad_begA (s : State) (c : Nat) : (s.pad c).begA = s.begA := rfl
@[simp] theorem State.pad_endA (s : State) (c : Nat) : (s.pad c).endA = s.endA := rfl
@[simp] theorem State.pad_w (s : State) (c : Nat) : (s.pad c).w = s.w := rfl
@[simp] theorem State.pad_rb (s : State) (c : Nat) : (s.pad c).rb = s.rb := rfl
@[simp] theorem State.pad_h (s : State) (c : Nat) : (s.pad c).h = s.h := rfl
@[simp] theorem State.pad_cap (s : State) (c : Nat) : (s.pad c).cap = s.cap := rfl
@[simp] theorem State.pad_eff (s : State) (c : Nat) : (s.pad c).eff = s.eff := rfl
@[simp] theorem State.pad_poff (s : State) (c : Nat) : (s.pad c).poff = s.poff := rfl
@[simp] theorem State.pad_pal (s : State) (c : Nat) : (s.pad c).pal = s.pal := rfl
@[simp] theorem State.pad_buf (s : State) (c : Nat) : (s.pad c).buf = s.buf := rfl
@[simp] theorem State.pad_kc (s : State) (c : Nat) : (s.pad c).kc = s.kc := rfl
@[simp] theorem State.pad_jc (s : State) (c : Nat) : (s.pad c).jc = s.jc := rfl
@[simp] theorem State.pad_grp (s : State) (c : Nat) : (s.pad c).grp = s.grp := rfl
@[simp] theorem State.pad_sw (s : State) (c : Nat) : (s.pad c).sw = s.sw := rfl
@[simp] theorem State.pad_sh (s : State) (c : Nat) : (s.pad c).sh = s.sh := rfl
@[simp] theorem State.pad_n (s : State) (c : Nat) : (s.pad c).n = s.n := rfl

@[simp] theorem State.withCur_tag (s : State) (v : Nat) : (s.withCur v).tag = s.tag := rfl
@[simp] theorem State.withCur_d (s : State) (v : Nat) : (s.withCur v).d = s.d := rfl
@[simp] theorem State.withCur_cfg (s : State) (v : Nat) : (s.withCur v).cfg = s.cfg := rfl
@[simp] theorem State.withCur_p (s : State) (v : Nat) : (s.withCur v).p = s.p := rfl
@[simp] theorem State.withCur_res (s : State) (v : Nat) : (s.withCur v).res = s.res := rfl
@[simp] theorem State.withCur_op (s : State) (v : Nat) : (s.withCur v).op = s.op := rfl
@[simp] theorem State.withCur_pt (s : State) (v : Nat) : (s.withCur v).pt = s.pt := rfl
@[simp] theorem State.withCur_cur (s : State) (v : Nat) : (s.withCur v).cur = some v := rfl
@[simp] theorem State.withCur_txt (s : State) (v : Nat) : (s.withCur v).txt = s.txt := rfl
@[simp] theorem State.withCur_pend (s : State) (v : Nat) : (s.withCur v).pend = s.pend := rfl
@[simp] theorem State.withCur_lbl (s : State) (v : Nat) : (s.withCur v).lbl = s.lbl := rfl
@[simp] theorem State.withCur_tbl (s : State) (v : Nat) : (s.withCur v).tbl = s.tbl := rfl
@[simp] theorem State.withCur_rend (s : State) (v : Nat) : (s.withCur v).rend = s.rend := rfl
@[simp] theorem State.withCur_begA (s : State) (v : Nat) : (s.withCur v).begA = s.begA := rfl
@[simp] theorem State.withCur_endA (s : State) (v : Nat) : (s.withCur v).endA = s.endA := rfl
@[simp] theorem State.withCur_w (s : State) (v : Nat) : (s.withCur v).w = s.w := rfl
@[simp] theorem State.withCur_rb (s : State) (v : Nat) : (s.withCur v).rb = s.rb := rfl
@[simp] theorem State.withCur_h (s : State) (v : Nat) : (s.withCur v).h = s.h := rfl
@[simp] theorem State.withCur_cap (s : State) (v : Nat) : (s.withCur v).cap = s.cap := rfl
@[simp] theorem State.withCur_eff (s : State) (v : Nat) : (s.withCur v).eff = s.eff := rfl
@[simp] theorem State.withCur_poff (s : State) (v : Nat) : (s.withCur v).poff = s.poff := rfl
@[simp] theorem State.withCur_pal (s : State) (v : Nat) : (s.withCur v).pal = s.pal := rfl
@[simp] theorem State.withCur_buf (s : State) (v : Nat) : (s.withCur v).buf = s.buf := rfl
@[simp] theorem State.withCur_kc (s : State) (v : Nat) : (s.withCur v).kc = s.kc := rfl
@[simp] theorem State.withCur_jc (s : State) (v : Nat) : (s.withCur v).jc = s.jc := rfl
@[simp] theorem State.withCur_grp (s : State) (v : Nat) : (s.withCur v).grp = s.grp := rfl
@[simp] theorem State.withCur_sw (s : State) (v : Nat) : (s.withCur v).sw = s.sw := rfl
@[simp] theorem State.withCur_sh (s : State) (v : Nat) : (s.withCur v).sh = s.sh := rfl
@[simp] theorem State.withCur_n (s : State) (v : Nat) : (s.withCur v).n = s.n := rfl

@[simp] theorem State.goto_tag (s : State) (pt : Point) : (s.goto pt).tag = s.tag := rfl
@[simp] theorem State.goto_d (s : State) (pt : Point) : (s.goto pt).d = s.d := rfl
@[simp] theorem State.goto_cfg (s : State) (pt : Point) : (s.goto pt).cfg = s.cfg := rfl
@[simp] theorem State.goto_p (s : State) (pt : Point) : (s.goto pt).p = s.p := rfl
@[simp] theorem State.goto_res (s : State) (pt : Point) : (s.goto pt).res = s.res := rfl
@[simp] theorem State.goto_op (s : State) (pt : Point) : (s.goto pt).op = s.op := rfl
@[simp] theorem State.goto_pt (s : State) (pt : Point) : (s.goto pt).pt = pt := rfl
@[simp] theorem State.goto_cur (s : State) (pt : Point) : (s.goto pt).cur = s.cur := rfl
@[simp] theorem State.goto_txt (s : State) (pt : Point) : (s.goto pt).txt = s.txt := rfl
@[simp] theorem State.goto_pend (s : State) (pt : Point) : (s.goto pt).pend = s.pend := rfl
@[simp] theorem State.goto_lbl (s : State) (pt : Point) : (s.goto pt).lbl = s.lbl := rfl
@[simp] theorem State.goto_tbl (s : State) (pt : Point) : (s.goto pt).tbl = s.tbl := rfl
@[simp] theorem State.goto_rend (s : State) (pt : Point) : (s.goto pt).rend = s.rend := rfl
@[simp] theorem State.goto_begA (s : State) (pt : Point) : (s.goto pt).begA = s.begA := rfl
@[simp] theorem State.goto_endA (s : State) (pt : Point) : (s.goto pt).endA = s.endA := rfl
@[simp] theorem State.goto_w (s : State) (pt : Point) : (s.goto pt).w = s.w := rfl
@[simp] theorem State.goto_rb (s : State) (pt : Point) : (s.goto pt).rb = s.rb := rfl
@[simp] theorem State.goto_h (s : State) (pt : Point) : (s.goto pt).h = s.h := rfl
@[simp] theorem State.goto_cap (s : State) (pt : Point) : (s.goto pt).cap = s.cap := rfl
@[simp] theorem State.goto_eff (s : State) (pt : Point) : (s.goto pt).eff = s.eff := rfl
@[simp] theorem State.goto_poff (s : State) (pt : Point) : (s.goto pt).poff = s.poff := rfl
@[simp] theorem State.goto_pal (s : State) (pt : Point) : (s.goto pt).pal = s.pal := rfl
@[simp] theorem State.goto_buf (s : State) (pt : Point) : (s.goto pt).buf = s.buf := rfl
@[simp] theorem State.goto_kc (s : State) (pt : Point) : (s.goto pt).kc = s.kc := rfl
@[simp] theorem State.goto_jc (s : State) (pt : Point) : (s.goto pt).jc = s.jc := rfl
@[simp] theorem State.goto_grp (s : State) (pt : Point) : (s.goto pt).grp = s.grp := rfl
@[simp] theorem State.goto_sw (s : State) (pt : Point) : (s.goto pt).sw = s.sw := rfl
@[simp] theorem State.goto_sh (s : State) (pt : Point) : (s.goto pt).sh = s.sh := rfl
@[simp] theorem State.goto_n (s : State) (pt : Point) : (s.goto pt).n = s.n := rfl

@[simp] theorem State.withBuf_tag (s : State) (b : Buf) : (s.withBuf b).tag = s.tag := rfl
@[simp] theorem State.withBuf_d (s : State) (b : Buf) : (s.withBuf b).d = s.d := rfl
@[simp] theorem State.withBuf_cfg (s : State) (b : Buf) : (s.withBuf b).cfg = s.cfg := rfl
@[simp] theorem State.withBuf_p (s : State) (b : Buf) : (s.withBuf b).p = s.p := rfl
@[simp] theorem State.withBuf_res (s : State) (b : Buf) : (s.withBuf b).res = s.res := rfl
@[simp] theorem State.withBuf_op (s : State) (b : Buf) : (s.withBuf b).op = s.op := rfl
@[simp] theorem State.withBuf_pt (s : State) (b : Buf) : (s.withBuf b).pt = s.pt := rfl
@[simp] theorem State.withBuf_cur (s : State) (b : Buf) : (s.withBuf b).cur = s.cur := rfl
@[simp] theorem State.withBuf_txt (s : State) (b : Buf) : (s.withBuf b).txt = s.txt := rfl
@[simp] theorem State.withBuf_pend (s : State) (b : Buf) : (s.withBuf b).pend = s.pend := rfl
@[simp] theorem State.withBuf_lbl (s : State) (b : Buf) : (s.withBuf b).lbl = s.lbl := rfl
@[simp] theorem State.withBuf_tbl (s : State) (b : Buf) : (s.withBuf b).tbl = s.tbl := rfl
@[simp] theorem State.withBuf_rend (s : State) (b : Buf) : (s.withBuf b).rend = s.rend := rfl
@[simp] theorem State.withBuf_begA (s : State) (b : Buf) : (s.withBuf b).begA = s.begA := rfl
@[simp] theorem State.withBuf_endA (s : State) (b : Buf) : (s.withBuf b).endA = s.endA := rfl
@[simp] theorem State.withBuf_w (s : State) (b : Buf) : (s.withBuf b).w = s.w := rfl
@[simp] theorem State.withBuf_rb (s : State) (b : Buf) : (s.withBuf b).rb = s.rb := rfl
@[simp] theorem State.withBuf_h (s : State) (b : Buf) : (s.withBuf b).h = s.h := rfl
@[simp] theorem State.withBuf_cap (s : State) (b : Buf) : (s.withBuf b).cap = s.cap := rfl
@[simp] theorem State.withBuf_eff (s : State) (b : Buf) : (s.withBuf b).eff = s.eff := rfl
@[simp] theorem State.withBuf_poff (s : State) (b : Buf) : (s.withBuf b).poff = s.poff := rfl
@[simp] theorem State.withBuf_pal (s : State) (b : Buf) : (s.withBuf b).pal = s.pal := rfl
@[simp] theorem State.withBuf_buf (s : State) (b : Buf) : (s.withBuf b).buf = some b := rfl
@[simp] theorem State.withBuf_kc (s : State) (b : Buf) : (s.withBuf b).kc = s.kc := rfl
@[simp] theorem State.withBuf_jc (s : State) (b : Buf) : (s.withBuf b).jc = s.jc := rfl
@[simp] theorem State.withBuf_grp (s : State) (b : Buf) : (s.withBuf b).grp = s.grp := rfl
@[simp] theorem State.withBuf_sw (s : State) (b : Buf) : (s.withBuf b).sw = s.sw := rfl
@[simp] theorem State.withBuf_sh (s : State) (b : Buf) : (s.withBuf b).sh = s.sh := rfl
@[simp] theorem State.withBuf_n (s : State) (b : Buf) : (s.withBuf b).n = s.n := rfl

@[simp] theorem State.clearFlags_tag (s : State) : (s.clearFlags).tag = s.tag := rfl
@[simp] theorem State.clearFlags_d (s : State) : (s.clearFlags).d = s.d := rfl
@[simp] theorem State.clearFlags_cfg (s : State) : (s.clearFlags).cfg = s.cfg := rfl
@[simp] theorem State.clearFlags_p (s : State) : (s.clearFlags).p = s.p := rfl
@[simp] theorem State.clearFlags_res (s : State) : (s.clearFlags).res = s.res := rfl
@[simp] theorem State.clearFlags_op (s : State) : (s.clearFlags).op = s.op := rfl
@[simp] theorem State.clearFlags_pt (s : State) : (s.clearFlags).pt = s.pt := rfl
@[simp] theorem State.clearFlags_cur (s : State) : (s.clearFlags).cur = s.cur := rfl
@[simp] theorem State.clearFlags_txt (s : State) : (s.clearFlags).txt = s.txt := rfl
@[simp] theorem State.clearFlags_pend (s : State) : (s.clearFlags).pend = false := rfl
@[simp] theorem State.clearFlags_lbl (s : State) : (s.clearFlags).lbl = false := rfl
@[simp] theorem State.clearFlags_tbl (s : State) : (s.clearFlags).tbl = s.tbl := rfl
@[simp] theorem State.clearFlags_rend (s : State) : (s.clearFlags).rend = s.rend := rfl
@[simp] theorem State.clearFlags_begA (s : State) : (s.clearFlags).begA = s.begA := rfl
@[simp] theorem State.clearFlags_endA (s : State) : (s.clearFlags).endA = s.endA := rfl
@[simp] theorem State.clearFlags_w (s : State) : (s.clearFlags).w = s.w := rfl
@[simp] theorem State.clearFlags_rb (s : State) : (s.clearFlags).rb = s.rb := rfl
@[simp] theorem State.clearFlags_h (s : State) : (s.clearFlags).h = s.h := rfl
@[simp] theorem State.clearFlags_cap (s : State) : (s.clearFlags).cap = s.cap := rfl
@[simp] theorem State.clearFlags_eff (s : State) : (s.clearFlags).eff = s.eff := rfl
@[simp] theorem State.clearFlags_poff (s : State) : (s.clearFlags).poff = s.poff := rfl
@[simp] theorem State.clearFlags_pal (s : State) : (s.clearFlags).pal = s.pal := rfl
@[simp] theorem State.clearFlags_buf (s : State) : (s.clearFlags).buf = s.buf := rfl
@[simp] theorem State.clearFlags_kc (s : State) : (s.clearFlags).kc = s.kc := rfl
@[simp] theorem State.clearFlags_jc (s : State) : (s.clearFlags).jc = s.jc := rfl
@[simp] theorem State.clearFlags_grp (s : State) : (s.clearFlags).grp = s.grp := rfl
@[simp] theorem State.clearFlags_sw (s : State) : (s.clearFlags).sw = s.sw := rfl
@[simp] theorem State.clearFlags_sh (s : State) : (s.clearFlags).sh = s.sh := rfl
@[simp] theorem State.clearFlags_n (s : State) : (s.clearFlags).n = s.n := rfl

@[simp] theorem State.setLbl_tag (s : State) : (s.setLbl).tag = s.tag := rfl
@[simp] theorem State.setLbl_d (s : State) : (s.setLbl).d = s.d := rfl
@[simp] theorem State.setLbl_cfg (s : State) : (s.setLbl).cfg = s.cfg := rfl
@[simp] theorem State.setLbl_p (s : State) : (s.setLbl).p = s.p := rfl
@[simp] theorem State.setLbl_res (s : State) : (s.setLbl).res = s.res := rfl
@[simp] theorem State.setLbl_op (s : State) : (s.setLbl).op = s.op := rfl
@[simp] theorem State.setLbl_pt (s : State) : (s.setLbl).pt = s.pt := rfl
@[simp] theorem State.setLbl_cur (s : State) : (s.setLbl).cur = s.cur := rfl
@[simp] theorem State.setLbl_txt (s : State) : (s.setLbl).txt = s.txt := rfl
@[simp] theorem State.setLbl_pend (s : State) : (s.setLbl).pend = s.pend := rfl
@[simp] theorem State.setLbl_lbl (s : State) : (s.setLbl).lbl = true := rfl
@[simp] theorem State.setLbl_tbl (s : State) : (s.setLbl).tbl = s.tbl := rfl
@[simp] theorem State.setLbl_rend (s : State) : (s.setLbl).rend = s.rend := rfl
@[simp] theorem State.setLbl_begA (s : State) : (s.setLbl).begA = s.begA := rfl
@[simp] theorem State.setLbl_endA (s : State) : (s.setLbl).endA = s.endA := rfl
@[simp] theorem State.setLbl_w (s : State) : (s.setLbl).w = s.w := rfl
@[simp] theorem State.setLbl_rb (s : State) : (s.setLbl).rb = s.rb := rfl
@[simp] theorem State.setLbl_h (s : State) : (s.setLbl).h = s.h := rfl
@[simp] theorem State.setLbl_cap (s : State) : (s.setLbl).cap = s.cap := rfl
@[simp] theorem State.setLbl_eff (s : State) : (s.setLbl).eff = s.eff := rfl
@[simp] theorem State.setLbl_poff (s : State) : (s.setLbl).poff = s.poff := rfl
@[simp] theorem State.setLbl_pal (s : State) : (s.setLbl).pal = s.pal := rfl
@[simp] theorem State.setLbl_buf (s : State) : (s.setLbl).buf = s.buf := rfl
@[simp] theorem State.setLbl_kc (s : State) : (s.setLbl).kc = s.kc := rfl
@[simp] theorem State.setLbl_jc (s : State) : (s.setLbl).jc = s.jc := rfl
@[simp] theorem State.setLbl_grp (s : State) : (s.setLbl).grp = s.grp := rfl
@[simp] theorem State.setLbl_sw (s : State) : (s.setLbl).sw = s.sw := rfl
@[simp] theorem State.setLbl_sh (s : State) : (s.setLbl).sh = s.sh := rfl
@[simp] theorem State.setLbl_n (s : State) : (s.setLbl).n = s.n := rfl

@[simp] theorem State.emitAtom_tag (s : State) (t : Text) : (s.emitAtom t).tag = s.tag := rfl
@[simp] theorem State.emitAtom_d (s : State) (t : Text) : (s.emitAtom t).d = s.d := rfl
@[simp] theorem State.emitAtom_cfg (s : State) (t : Text) : (s.emitAtom t).cfg = s.cfg := rfl
@[simp] theorem State.emitAtom_p (s : State) (t : Text) : (s.emitAtom t).p = s.p := rfl
@[simp] theorem State.emitAtom_res (s : State) (t : Text) : (s.emitAtom t).res = s.res := rfl
@[simp] theorem State.emitAtom_op (s : State) (t : Text) : (s.emitAtom t).op = s.op := rfl
@[simp] theorem State.emitAtom_pt (s : State) (t : Text) : (s.emitAtom t).pt = s.pt := rfl
@[simp] theorem State.emitAtom_cur (s : State) (t : Text) : (s.emitAtom t).cur = s.cur := rfl
@[simp] theorem State.emitAtom_txt (s : State) (t : Text) : (s.emitAtom t).txt = s.txt ++ (s.owed ++ t) := rfl
@[simp] theorem State.emitAtom_pend (s : State) (t : Text) : (s.emitAtom t).pend = true := rfl
@[simp] theorem State.emitAtom_lbl (s : State) (t : Text) : (s.emitAtom t).lbl = s.lbl := rfl
@[simp] theorem State.emitAtom_tbl (s : State) (t : Text) : (s.emitAtom t).tbl = s.tbl := rfl
@[simp] theorem State.emitAtom_rend (s : State) (t : Text) : (s.emitAtom t).rend = s.rend := rfl
@[simp] theorem State.emitAtom_begA (s : State) (t : Text) : (s.emitAtom t).begA = s.begA := rfl
@[simp] theorem State.emitAtom_endA (s : State) (t : Text) : (s.emitAtom t).endA = s.endA := rfl
@[simp] theorem State.emitAtom_w (s : State) (t : Text) : (s.emitAtom t).w = s.w := rfl
@[simp] theorem State.emitAtom_rb (s : State) (t : Text) : (s.emitAtom t).rb = s.rb := rfl
@[simp] theorem State.emitAtom_h (s : State) (t : Text) : (s.emitAtom t).h = s.h := rfl
@[simp] theorem State.emitAtom_cap (s : State) (t : Text) : (s.emitAtom t).cap = s.cap := rfl
@[simp] theorem State.emitAtom_eff (s : State) (t : Text) : (s.emitAtom t).eff = s.eff := rfl
@[simp] theorem State.emitAtom_poff (s : State) (t : Text) : (s.emitAtom t).poff = s.poff := rfl
@[simp] theorem State.emitAtom_pal (s : State) (t : Text) : (s.emitAtom t).pal = s.pal := rfl
@[simp] theorem State.emitAtom_buf (s : State) (t : Text) : (s.emitAtom t).buf = s.buf := rfl
@[simp] theorem State.emitAtom_kc (s : State) (t : Text) : (s.emitAtom t).kc = s.kc := rfl
@[simp] theorem State.emitAtom_jc (s : State) (t : Text) : (s.emitAtom t).jc = s.jc := rfl
@[simp] theorem State.emitAtom_grp (s : State) (t : Text) : (s.emitAtom t).grp = s.grp := rfl
@[simp] theorem State.emitAtom_sw (s : State) (t : Text) : (s.emitAtom t).sw = s.sw := rfl
@[simp] theorem State.emitAtom_sh (s : State) (t : Text) : (s.emitAtom t).sh = s.sh := rfl
@[simp] theorem State.emitAtom_n (s : State) (t : Text) : (s.emitAtom t).n = s.n := rfl

@[simp] theorem State.emitDropping_tag (s : State) (t : Text) : (s.emitDropping t).tag = s.tag := rfl
@[simp] theorem State.emitDropping_d (s : State) (t : Text) : (s.emitDropping t).d = s.d := rfl
@[simp] theorem State.emitDropping_cfg (s : State) (t : Text) : (s.emitDropping t).cfg = s.cfg := rfl
@[simp] theorem State.emitDropping_p (s : State) (t : Text) : (s.emitDropping t).p = s.p := rfl
@[simp] theorem State.emitDropping_res (s : State) (t : Text) : (s.emitDropping t).res = s.res := rfl
@[simp] theorem State.emitDropping_op (s : State) (t : Text) : (s.emitDropping t).op = s.op := rfl
@[simp] theorem State.emitDropping_pt (s : State) (t : Text) : (s.emitDropping t).pt = s.pt := rfl
@[simp] theorem State.emitDropping_cur (s : State) (t : Text) : (s.emitDropping t).cur = s.cur := rfl
@[simp] theorem State.emitDropping_txt (s : State) (t : Text) : (s.emitDropping t).txt = s.txt ++ t := rfl
@[simp] theorem State.emitDropping_pend (s : State) (t : Text) : (s.emitDropping t).pend = false := rfl
@[simp] theorem State.emitDropping_lbl (s : State) (t : Text) : (s.emitDropping t).lbl = s.lbl := rfl
@[simp] theorem State.emitDropping_tbl (s : State) (t : Text) : (s.emitDropping t).tbl = s.tbl := rfl
@[simp] theorem State.emitDropping_rend (s : State) (t : Text) : (s.emitDropping t).rend = s.rend := rfl
@[simp] theorem State.emitDropping_begA (s : State) (t : Text) : (s.emitDropping t).begA = s.begA := rfl
@[simp] theorem State.emitDropping_endA (s : State) (t : Text) : (s.emitDropping t).endA = s.endA := rfl
@[simp] theorem State.emitDropping_w (s : State) (t : Text) : (s.emitDropping t).w = s.w := rfl
@[simp] theorem State.emitDropping_rb (s : State) (t : Text) : (s.emitDropping t).rb = s.rb := rfl
@[simp] theorem State.emitDropping_h (s : State) (t : Text) : (s.emitDropping t).h = s.h := rfl
@[simp] theorem State.emitDropping_cap (s : State) (t : Text) : (s.emitDropping t).cap = s.cap := rfl
@[simp] theorem State.emitDropping_eff (s : State) (t : Text) : (s.emitDropping t).eff = s.eff := rfl
@[simp] theorem State.emitDropping_poff (s : State) (t : Text) : (s.emitDropping t).poff = s.poff := rfl
@[simp] theorem State.emitDropping_pal (s : State) (t : Text) : (s.emitDropping t).pal = s.pal := rfl
@[simp] theorem State.emitDropping_buf (s : State) (t : Text) : (s.emitDropping t).buf = s.buf := rfl
@[simp] theorem State.emitDropping_kc (s : State) (t : Text) : (s.emitDropping t).kc = s.kc := rfl
@[simp] theorem State.emitDropping_jc (s : State) (t : Text) : (s.emitDropping t).jc = s.jc := rfl
@[simp] theorem State.emitDropping_grp (s : State) (t : Text) : (s.emitDropping t).grp = s.grp := rfl
@[simp] theorem State.emitDropping_sw (s : State) (t : Text) : (s.emitDropping t).sw = s.sw := rfl
@[simp] theorem State.emitDropping_sh (s : State) (t : Text) : (s.emitDropping t).sh = s.sh := rfl
@[simp] theorem State.emitDropping_n (s : State) (t : Text) : (s.emitDropping t).n = s.n := rfl

@[simp] theorem State.deliver_tag (s : State) (r : Result) : (s.deliver r).tag = s.tag := rfl
@[simp] theorem State.deliver_d (s : State) (r : Result) : (s.deliver r).d = s.d := rfl
@[simp] theorem State.deliver_cfg (s : State) (r : Result) : (s.deliver r).cfg = s.cfg := rfl
@[simp] theorem State.deliver_p (s : State) (r : Result) : (s.deliver r).p = s.p := rfl
@[simp] theorem State.deliver_res (s : State) (r : Result) : (s.deliver r).res = some r := rfl
@[simp] theorem State.deliver_op (s : State) (r : Result) : (s.deliver r).op = none := rfl
@[simp] theorem State.deliver_pt (s : State) (r : Result) : (s.deliver r).pt = .dispatch := rfl
@[simp] theorem State.deliver_cur (s : State) (r : Result) : (s.deliver r).cur = s.cur := rfl
@[simp] theorem State.deliver_txt (s : State) (r : Result) : (s.deliver r).txt = s.txt := rfl
@[simp] theorem State.deliver_pend (s : State) (r : Result) : (s.deliver r).pend = s.pend := rfl
@[simp] theorem State.deliver_lbl (s : State) (r : Result) : (s.deliver r).lbl = s.lbl := rfl
@[simp] theorem State.deliver_tbl (s : State) (r : Result) : (s.deliver r).tbl = s.tbl := rfl
@[simp] theorem State.deliver_rend (s : State) (r : Result) : (s.deliver r).rend = s.rend := rfl
@[simp] theorem State.deliver_begA (s : State) (r : Result) : (s.deliver r).begA = s.begA := rfl
@[simp] theorem State.deliver_endA (s : State) (r : Result) : (s.deliver r).endA = s.endA := rfl
@[simp] theorem State.deliver_w (s : State) (r : Result) : (s.deliver r).w = s.w := rfl
@[simp] theorem State.deliver_rb (s : State) (r : Result) : (s.deliver r).rb = s.rb := rfl
@[simp] theorem State.deliver_h (s : State) (r : Result) : (s.deliver r).h = s.h := rfl
@[simp] theorem State.deliver_cap (s : State) (r : Result) : (s.deliver r).cap = s.cap := rfl
@[simp] theorem State.deliver_eff (s : State) (r : Result) : (s.deliver r).eff = s.eff := rfl
@[simp] theorem State.deliver_poff (s : State) (r : Result) : (s.deliver r).poff = s.poff := rfl
@[simp] theorem State.deliver_pal (s : State) (r : Result) : (s.deliver r).pal = s.pal := rfl
@[simp] theorem State.deliver_buf (s : State) (r : Result) : (s.deliver r).buf = s.buf := rfl
@[simp] theorem State.deliver_kc (s : State) (r : Result) : (s.deliver r).kc = s.kc := rfl
@[simp] theorem State.deliver_jc (s : State) (r : Result) : (s.deliver r).jc = s.jc := rfl
@[simp] theorem State.deliver_grp (s : State) (r : Result) : (s.deliver r).grp = s.grp := rfl
@[simp] theorem State.deliver_sw (s : State) (r : Result) : (s.deliver r).sw = s.sw := rfl
@[simp] theorem State.deliver_sh (s : State) (r : Result) : (s.deliver r).sh = s.sh := rfl
@[simp] theorem State.deliver_n (s : State) (r : Result) : (s.deliver r).n = s.n := rfl

@[simp] theorem State.raise_tag (s : State) (e : Err) (info : Int) : (s.raise e info).tag = s.tag := rfl
@[simp] theorem State.raise_d (s : State) (e : Err) (info : Int) : (s.raise e info).d = s.d := rfl
@[simp] theorem State.raise_cfg (s : State) (e : Err) (info : Int) : (s.raise e info).cfg = s.cfg := rfl
@[simp] theorem State.raise_p (s : State) (e : Err) (info : Int) : (s.raise e info).p = s.p := rfl
@[simp] theorem State.raise_res (s : State) (e : Err) (info : Int) : (s.raise e info).res = some (.fail e info) := rfl
@[simp] theorem State.raise_op (s : State) (e : Err) (info : Int) : (s.raise e info).op = none := rfl
@[simp] theorem State.raise_pt (s : State) (e : Err) (info : Int) : (s.raise e info).pt = .dispatch := rfl
@[simp] theorem State.raise_cur (s : State) (e : Err) (info : Int) : (s.raise e info).cur = s.cur := rfl
@[simp] theorem State.raise_txt (s : State) (e : Err) (info : Int) : (s.raise e info).txt = [] := rfl
@[simp] theorem State.raise_pend (s : State) (e : Err) (info : Int) : (s.raise e info).pend = s.pend := rfl
@[simp] theorem State.raise_lbl (s : State) (e : Err) (info : Int) : (s.raise e info).lbl = s.lbl := rfl
@[simp] theorem State.raise_tbl (s : State) (e : Err) (info : Int) : (s.raise e info).tbl = s.tbl := rfl
@[simp] theorem State.raise_rend (s : State) (e : Err) (info : Int) : (s.raise e info).rend = s.rend := rfl
@[simp] theorem State.raise_begA (s : State) (e : Err) (info : Int) : (s.raise e info).begA = s.begA := rfl
@[simp] theorem State.raise_endA (s : State) (e : Err) (info : Int) : (s.raise e info).endA = s.endA := rfl
@[simp] theorem State.raise_w (s : State) (e : Err) (info : Int) : (s.raise e info).w = s.w := rfl
@[simp] theorem State.raise_rb (s : State) (e : Err) (info : Int) : (s.raise e info).rb = s.rb := rfl
@[simp] theorem State.raise_h (s : State) (e : Err) (info : Int) : (s.raise e info).h = s.h := rfl
@[simp] theorem State.raise_cap (s : State) (e : Err) (info : Int) : (s.raise e info).cap = s.cap := rfl
@[simp] theorem State.raise_eff (s : State) (e : Err) (info : Int) : (s.raise e info).eff = s.eff := rfl
@[simp] theorem State.raise_poff (s : State) (e : Err) (info : Int) : (s.raise e info).poff = s.poff := rfl
@[simp] theorem State.raise_pal (s : State) (e : Err) (info : Int) : (s.raise e info).pal = s.pal := rfl
@[simp] theorem State.raise_buf (s : State) (e : Err) (info : Int) : (s.raise e info).buf = none := rfl
@[simp] theorem State.raise_kc (s : State) (e : Err) (info : Int) : (s.raise e info).kc = s.kc := rfl
@[simp] theorem State.raise_jc (s : State) (e : Err) (info : Int) : (s.raise e info).jc = s.jc := rfl
@[simp] theorem State.raise_grp (s : State) (e : Err) (info : Int) : (s.raise e info).grp = s.grp := rfl
@[simp] theorem State.raise_sw (s : State) (e : Err) (info : Int) : (s.raise e info).sw = s.sw := rfl
@[simp] theorem State.raise_sh (s : State) (e : Err) (info : Int) : (s.raise e info).sh = s.sh := rfl
@[simp] theorem State.raise_n (s : State) (e : Err) (info : Int) : (s.raise e info).n = s.n := rfl

@[simp] theorem State.raiseRead_tag (s : State) (off : Nat) : (s.raiseRead off).tag = s.tag := rfl
@[simp] theorem State.raiseRead_d (s : State) (off : Nat) : (s.raiseRead off).d = s.d := rfl
@[simp] theorem State.raiseRead_cfg (s : State) (off : Nat) : (s.raiseRead off).cfg = s.cfg := rfl
@[simp] theorem State.raiseRead_p (s : State) (off : Nat) : (s.raiseRead off).p = s.p := rfl
@[simp] theorem State.raiseRead_res (s : State) (off : Nat) : (s.raiseRead off).res = some (.fail .truncatedPayload (Config.memReadInfo s.d off)) := rfl
@[simp] theorem State.raiseRead_op (s : State) (off : Nat) : (s.raiseRead off).op = none := rfl
@[simp] theorem State.raiseRead_pt (s : State) (off : Nat) : (s.raiseRead off).pt = .dispatch := rfl
@[simp] theorem State.raiseRead_cur (s : State) (off : Nat) : (s.raiseRead off).cur = s.cur := rfl
@[simp] theorem State.raiseRead_txt (s : State) (off : Nat) : (s.raiseRead off).txt = [] := rfl
@[simp] theorem State.raiseRead_pend (s : State) (off : Nat) : (s.raiseRead off).pend = s.pend := rfl
@[simp] theorem State.raiseRead_lbl (s : State) (off : Nat) : (s.raiseRead off).lbl = s.lbl := rfl
@[simp] theorem State.raiseRead_tbl (s : State) (off : Nat) : (s.raiseRead off).tbl = s.tbl := rfl
@[simp] theorem State.raiseRead_rend (s : State) (off : Nat) : (s.raiseRead off).rend = s.rend := rfl
@[simp] theorem State.raiseRead_begA (s : State) (off : Nat) : (s.raiseRead off).begA = s.begA := rfl
@[simp] theorem State.raiseRead_endA (s : State) (off : Nat) : (s.raiseRead off).endA = s.endA := rfl
@[simp] theorem State.raiseRead_w (s : State) (off : Nat) : (s.raiseRead off).w = s.w := rfl
@[simp] theorem State.raiseRead_rb (s : State) (off : Nat) : (s.raiseRead off).rb = s.rb := rfl
@[simp] theorem State.raiseRead_h (s : State) (off : Nat) : (s.raiseRead off).h = s.h := rfl
@[simp] theorem State.raiseRead_cap (s : State) (off : Nat) : (s.raiseRead off).cap = s.cap := rfl
@[simp] theorem State.raiseRead_eff (s : State) (off : Nat) : (s.raiseRead off).eff = s.eff := rfl
@[simp] theorem State.raiseRead_poff (s : State) (off : Nat) : (s.raiseRead off).poff = s.poff := rfl
@[simp] theorem State.raiseRead_pal (s : State) (off : Nat) : (s.raiseRead off).pal = s.pal := rfl
@[simp] theorem State.raiseRead_buf (s : State) (off : Nat) : (s.raiseRead off).buf = none := rfl
@[simp] theorem State.raiseRead_kc (s : State) (off : Nat) : (s.raiseRead off).kc = s.kc := rfl
@[simp] theorem State.raiseRead_jc (s : State) (off : Nat) : (s.raiseRead off).jc = s.jc := rfl
@[simp] theorem State.raiseRead_grp (s : State) (off : Nat) : (s.raiseRead off).grp = s.grp := rfl
@[simp] theorem State.raiseRead_sw (s : State) (off : Nat) : (s.raiseRead off).sw = s.sw := rfl
@[simp] theorem State.raiseRead_sh (s : State) (off : Nat) : (s.raiseRead off).sh = s.sh := rfl
@[simp] theorem State.raiseRead_n (s : State) (off : Nat) : (s.raiseRead off).n = s.n := rfl

@[simp] theorem State.refuse_tag (s : State) (u : Reason) : (s.refuse u).tag = s.tag := rfl
@[simp] theorem State.refuse_d (s : State) (u : Reason) : (s.refuse u).d = s.d := rfl
@[simp] theorem State.refuse_cfg (s : State) (u : Reason) : (s.refuse u).cfg = s.cfg := rfl
@[simp] theorem State.refuse_p (s : State) (u : Reason) : (s.refuse u).p = s.p := rfl
@[simp] theorem State.refuse_res (s : State) (u : Reason) : (s.refuse u).res = some (.unmodelled u) := rfl
@[simp] theorem State.refuse_op (s : State) (u : Reason) : (s.refuse u).op = none := rfl
@[simp] theorem State.refuse_pt (s : State) (u : Reason) : (s.refuse u).pt = .dispatch := rfl
@[simp] theorem State.refuse_cur (s : State) (u : Reason) : (s.refuse u).cur = s.cur := rfl
@[simp] theorem State.refuse_txt (s : State) (u : Reason) : (s.refuse u).txt = [] := rfl
@[simp] theorem State.refuse_pend (s : State) (u : Reason) : (s.refuse u).pend = s.pend := rfl
@[simp] theorem State.refuse_lbl (s : State) (u : Reason) : (s.refuse u).lbl = s.lbl := rfl
@[simp] theorem State.refuse_tbl (s : State) (u : Reason) : (s.refuse u).tbl = s.tbl := rfl
@[simp] theorem State.refuse_rend (s : State) (u : Reason) : (s.refuse u).rend = s.rend := rfl
@[simp] theorem State.refuse_begA (s : State) (u : Reason) : (s.refuse u).begA = s.begA := rfl
@[simp] theorem State.refuse_endA (s : State) (u : Reason) : (s.refuse u).endA = s.endA := rfl
@[simp] theorem State.refuse_w (s : State) (u : Reason) : (s.refuse u).w = s.w := rfl
@[simp] theorem State.refuse_rb (s : State) (u : Reason) : (s.refuse u).rb = s.rb := rfl
@[simp] theorem State.refuse_h (s : State) (u : Reason) : (s.refuse u).h = s.h := rfl
@[simp] theorem State.refuse_cap (s : State) (u : Reason) : (s.refuse u).cap = s.cap := rfl
@[simp] theorem State.refuse_eff (s : State) (u : Reason) : (s.refuse u).eff = s.eff := rfl
@[simp] theorem State.refuse_poff (s : State) (u : Reason) : (s.refuse u).poff = s.poff := rfl
@[simp] theorem State.refuse_pal (s : State) (u : Reason) : (s.refuse u).pal = s.pal := rfl
@[simp] theorem State.refuse_buf (s : State) (u : Reason) : (s.refuse u).buf = none := rfl
@[simp] theorem State.refuse_kc (s : State) (u : Reason) : (s.refuse u).kc = s.kc := rfl
@[simp] theorem State.refuse_jc (s : State) (u : Reason) : (s.refuse u).jc = s.jc := rfl
@[simp] theorem State.refuse_grp (s : State) (u : Reason) : (s.refuse u).grp = s.grp := rfl
@[simp] theorem State.refuse_sw (s : State) (u : Reason) : (s.refuse u).sw = s.sw := rfl
@[simp] theorem State.refuse_sh (s : State) (u : Reason) : (s.refuse u).sh = s.sh := rfl
@[simp] theorem State.refuse_n (s : State) (u : Reason) : (s.refuse u).n = s.n := rfl

@[simp] theorem State.deliverText_tag (s : State) : (s.deliverText).tag = s.tag := rfl
@[simp] theorem State.deliverText_d (s : State) : (s.deliverText).d = s.d := rfl
@[simp] theorem State.deliverText_cfg (s : State) : (s.deliverText).cfg = s.cfg := rfl
@[simp] theorem State.deliverText_p (s : State) : (s.deliverText).p = s.p := rfl
@[simp] theorem State.deliverText_res (s : State) : (s.deliverText).res = some (.text s.txt) := rfl
@[simp] theorem State.deliverText_op (s : State) : (s.deliverText).op = none := rfl
@[simp] theorem State.deliverText_pt (s : State) : (s.deliverText).pt = .dispatch := rfl
@[simp] theorem State.deliverText_cur (s : State) : (s.deliverText).cur = s.cur := rfl
@[simp] theorem State.deliverText_txt (s : State) : (s.deliverText).txt = s.txt := rfl
@[simp] theorem State.deliverText_pend (s : State) : (s.deliverText).pend = s.pend := rfl
@[simp] theorem State.deliverText_lbl (s : State) : (s.deliverText).lbl = s.lbl := rfl
@[simp] theorem State.deliverText_tbl (s : State) : (s.deliverText).tbl = s.tbl := rfl
@[simp] theorem State.deliverText_rend (s : State) : (s.deliverText).rend = s.rend := rfl
@[simp] theorem State.deliverText_begA (s : State) : (s.deliverText).begA = s.begA := rfl
@[simp] theorem State.deliverText_endA (s : State) : (s.deliverText).endA = s.endA := rfl
@[simp] theorem State.deliverText_w (s : State) : (s.deliverText).w = s.w := rfl
@[simp] theorem State.deliverText_rb (s : State) : (s.deliverText).rb = s.rb := rfl
@[simp] theorem State.deliverText_h (s : State) : (s.deliverText).h = s.h := rfl
@[simp] theorem State.deliverText_cap (s : State) : (s.deliverText).cap = s.cap := rfl
@[simp] theorem State.deliverText_eff (s : State) : (s.deliverText).eff = s.eff := rfl
@[simp] theorem State.deliverText_poff (s : State) : (s.deliverText).poff = s.poff := rfl
@[simp] theorem State.deliverText_pal (s : State) : (s.deliverText).pal = s.pal := rfl
@[simp] theorem State.deliverText_buf (s : State) : (s.deliverText).buf = s.buf := rfl
@[simp] theorem State.deliverText_kc (s : State) : (s.deliverText).kc = s.kc := rfl
@[simp] theorem State.deliverText_jc (s : State) : (s.deliverText).jc = s.jc := rfl
@[simp] theorem State.deliverText_grp (s : State) : (s.deliverText).grp = s.grp := rfl
@[simp] theorem State.deliverText_sw (s : State) : (s.deliverText).sw = s.sw := rfl
@[simp] theorem State.deliverText_sh (s : State) : (s.deliverText).sh = s.sh := rfl
@[simp] theorem State.deliverText_n (s : State) : (s.deliverText).n = s.n := rfl

@[simp] theorem State.deliverImage_tag (s : State) (b : Buf) : (s.deliverImage b).tag = s.tag := rfl
@[simp] theorem State.deliverImage_d (s : State) (b : Buf) : (s.deliverImage b).d = s.d := rfl
@[simp] theorem State.deliverImage_cfg (s : State) (b : Buf) : (s.deliverImage b).cfg = s.cfg := rfl
@[simp] theorem State.deliverImage_p (s : State) (b : Buf) : (s.deliverImage b).p = s.p := rfl
@[simp] theorem State.deliverImage_res (s : State) (b : Buf) : (s.deliverImage b).res = some (.image (postDouble s.cfg.double b)) := rfl
@[simp] theorem State.deliverImage_op (s : State) (b : Buf) : (s.deliverImage b).op = none := rfl
@[simp] theorem State.deliverImage_pt (s : State) (b : Buf) : (s.deliverImage b).pt = .dispatch := rfl
@[simp] theorem State.deliverImage_cur (s : State) (b : Buf) : (s.deliverImage b).cur = s.cur := rfl
@[simp] theorem State.deliverImage_txt (s : State) (b : Buf) : (s.deliverImage b).txt = s.txt := rfl
@[simp] theorem State.deliverImage_pend (s : State) (b : Buf) : (s.deliverImage b).pend = s.pend := rfl
@[simp] theorem State.deliverImage_lbl (s : State) (b : Buf) : (s.deliverImage b).lbl = s.lbl := rfl
@[simp] theorem State.deliverImage_tbl (s : State) (b : Buf) : (s.deliverImage b).tbl = s.tbl := rfl
@[simp] theorem State.deliverImage_rend (s : State) (b : Buf) : (s.deliverImage b).rend = s.rend := rfl
@[simp] theorem State.deliverImage_begA (s : State) (b : Buf) : (s.deliverImage b).begA = s.begA := rfl
@[simp] theorem State.deliverImage_endA (s : State) (b : Buf) : (s.deliverImage b).endA = s.endA := rfl
@[simp] theorem State.deliverImage_w (s : State) (b : Buf) : (s.deliverImage b).w = s.w := rfl
@[simp] theorem State.deliverImage_rb (s : State) (b : Buf) : (s.deliverImage b).rb = s.rb := rfl
@[simp] theorem State.deliverImage_h (s : State) (b : Buf) : (s.deliverImage b).h = s.h := rfl
@[simp] theorem State.deliverImage_cap (s : State) (b : Buf) : (s.deliverImage b).cap = s.cap := rfl
@[simp] theorem State.deliverImage_eff (s : State) (b : Buf) : (s.deliverImage b).eff = s.eff := rfl
@[simp] theorem State.deliverImage_poff (s : State) (b : Buf) : (s.deliverImage b).poff = s.poff := rfl
@[simp] theorem State.deliverImage_pal (s : State) (b : Buf) : (s.deliverImage b).pal = s.pal := rfl
@[simp] theorem State.deliverImage_buf (s : State) (b : Buf) : (s.deliverImage b).buf = some (postDouble s.cfg.double b) := rfl
@[simp] theorem State.deliverImage_kc (s : State) (b : Buf) : (s.deliverImage b).kc = s.kc := rfl
@[simp] theorem State.deliverImage_jc (s : State) (b : Buf) : (s.deliverImage b).jc = s.jc := rfl
@[simp] theorem State.deliverImage_grp (s : State) (b : Buf) : (s.deliverImage b).grp = s.grp := rfl
@[simp] theorem State.deliverImage_sw (s : State) (b : Buf) : (s.deliverImage b).sw = s.sw := rfl
@[simp] theorem State.deliverImage_sh (s : State) (b : Buf) : (s.deliverImage b).sh = s.sh := rfl
@[simp] theorem State.deliverImage_n (s : State) (b : Buf) : (s.deliverImage b).n = s.n := rfl

@[simp] theorem State.fresh_tag (s : State) : (s.fresh).tag = s.tag := rfl
@[simp] theorem State.fresh_d (s : State) : (s.fresh).d = s.d := rfl
@[simp] theorem State.fresh_cfg (s : State) : (s.fresh).cfg = s.cfg := rfl
@[simp] theorem State.fresh_p (s : State) : (s.fresh).p = s.p := rfl
@[simp] theorem State.fresh_res (s : State) : (s.fresh).res = none := rfl
@[simp] theorem State.fresh_op (s : State) : (s.fresh).op = none := rfl
@[simp] theorem State.fresh_pt (s : State) : (s.fresh).pt = .dispatch := rfl
@[simp] theorem State.fresh_cur (s : State) : (s.fresh).cur = none := rfl
@[simp] theorem State.fresh_txt (s : State) : (s.fresh).txt = [] := rfl
@[simp] theorem State.fresh_pend (s : State) : (s.fresh).pend = false := rfl
@[simp] theorem State.fresh_lbl (s : State) : (s.fresh).lbl = false := rfl
@[simp] theorem State.fresh_tbl (s : State) : (s.fresh).tbl = none := rfl
@[simp] theorem State.fresh_rend (s : State) : (s.fresh).rend = none := rfl
@[simp] theorem State.fresh_begA (s : State) : (s.fresh).begA = none := rfl
@[simp] theorem State.fresh_endA (s : State) : (s.fresh).endA = none := rfl
@[simp] theorem State.fresh_w (s : State) : (s.fresh).w = none := rfl
@[simp] theorem State.fresh_rb (s : State) : (s.fresh).rb = none := rfl
@[simp] theorem State.fresh_h (s : State) : (s.fresh).h = none := rfl
@[simp] theorem State.fresh_cap (s : State) : (s.fresh).cap = none := rfl
@[simp] theorem State.fresh_eff (s : State) : (s.fresh).eff = none := rfl
@[simp] theorem State.fresh_poff (s : State) : (s.fresh).poff = none := rfl
@[simp] theorem State.fresh_pal (s : State) : (s.fresh).pal = Vector.replicate 16 none := rfl
@[simp] theorem State.fresh_buf (s : State) : (s.fresh).buf = none := rfl
@[simp] theorem State.fresh_kc (s : State) : (s.fresh).kc = none := rfl
@[simp] theorem State.fresh_jc (s : State) : (s.fresh).jc = none := rfl
@[simp] theorem State.fresh_grp (s : State) : (s.fresh).grp = none := rfl
@[simp] theorem State.fresh_sw (s : State) : (s.fresh).sw = none := rfl
@[simp] theorem State.fresh_sh (s : State) : (s.fresh).sh = none := rfl
@[simp] theorem State.fresh_n (s : State) : (s.fresh).n = none := rfl

@[simp] theorem State.enter_tag (s : State) (o : Operation) : (s.enter o).tag = s.tag := rfl
@[simp] theorem State.enter_d (s : State) (o : Operation) : (s.enter o).d = s.d := rfl
@[simp] theorem State.enter_cfg (s : State) (o : Operation) : (s.enter o).cfg = s.cfg := rfl
@[simp] theorem State.enter_p (s : State) (o : Operation) : (s.enter o).p = s.p := rfl
@[simp] theorem State.enter_res (s : State) (o : Operation) : (s.enter o).res = none := rfl
@[simp] theorem State.enter_op (s : State) (o : Operation) : (s.enter o).op = some o := rfl
@[simp] theorem State.enter_pt (s : State) (o : Operation) : (s.enter o).pt = entryPoint o := rfl
@[simp] theorem State.enter_cur (s : State) (o : Operation) : (s.enter o).cur = none := rfl
@[simp] theorem State.enter_txt (s : State) (o : Operation) : (s.enter o).txt = [] := rfl
@[simp] theorem State.enter_pend (s : State) (o : Operation) : (s.enter o).pend = false := rfl
@[simp] theorem State.enter_lbl (s : State) (o : Operation) : (s.enter o).lbl = false := rfl
@[simp] theorem State.enter_tbl (s : State) (o : Operation) : (s.enter o).tbl = none := rfl
@[simp] theorem State.enter_rend (s : State) (o : Operation) : (s.enter o).rend = none := rfl
@[simp] theorem State.enter_begA (s : State) (o : Operation) : (s.enter o).begA = none := rfl
@[simp] theorem State.enter_endA (s : State) (o : Operation) : (s.enter o).endA = none := rfl
@[simp] theorem State.enter_w (s : State) (o : Operation) : (s.enter o).w = none := rfl
@[simp] theorem State.enter_rb (s : State) (o : Operation) : (s.enter o).rb = none := rfl
@[simp] theorem State.enter_h (s : State) (o : Operation) : (s.enter o).h = none := rfl
@[simp] theorem State.enter_cap (s : State) (o : Operation) : (s.enter o).cap = none := rfl
@[simp] theorem State.enter_eff (s : State) (o : Operation) : (s.enter o).eff = none := rfl
@[simp] theorem State.enter_poff (s : State) (o : Operation) : (s.enter o).poff = none := rfl
@[simp] theorem State.enter_pal (s : State) (o : Operation) : (s.enter o).pal = Vector.replicate 16 none := rfl
@[simp] theorem State.enter_buf (s : State) (o : Operation) : (s.enter o).buf = none := rfl
@[simp] theorem State.enter_kc (s : State) (o : Operation) : (s.enter o).kc = none := rfl
@[simp] theorem State.enter_jc (s : State) (o : Operation) : (s.enter o).jc = none := rfl
@[simp] theorem State.enter_grp (s : State) (o : Operation) : (s.enter o).grp = none := rfl
@[simp] theorem State.enter_sw (s : State) (o : Operation) : (s.enter o).sw = none := rfl
@[simp] theorem State.enter_sh (s : State) (o : Operation) : (s.enter o).sh = none := rfl
@[simp] theorem State.enter_n (s : State) (o : Operation) : (s.enter o).n = none := rfl

@[simp] theorem endRecord_tag (s : State) : (endRecord s).tag = s.tag := rfl
@[simp] theorem endRecord_d (s : State) : (endRecord s).d = s.d := rfl
@[simp] theorem endRecord_cfg (s : State) : (endRecord s).cfg = s.cfg := rfl
@[simp] theorem endRecord_p (s : State) : (endRecord s).p = s.p := rfl
@[simp] theorem endRecord_res (s : State) : (endRecord s).res = s.res := rfl
@[simp] theorem endRecord_op (s : State) : (endRecord s).op = s.op := rfl
@[simp] theorem endRecord_pt (s : State) : (endRecord s).pt = .recordLength := rfl
@[simp] theorem endRecord_cur (s : State) : (endRecord s).cur = s.cur := rfl
@[simp] theorem endRecord_txt (s : State) : (endRecord s).txt = s.txt ++ [NL] := rfl
@[simp] theorem endRecord_pend (s : State) : (endRecord s).pend = s.pend := rfl
@[simp] theorem endRecord_lbl (s : State) : (endRecord s).lbl = s.lbl := rfl
@[simp] theorem endRecord_tbl (s : State) : (endRecord s).tbl = s.tbl := rfl
@[simp] theorem endRecord_rend (s : State) : (endRecord s).rend = s.rend := rfl
@[simp] theorem endRecord_begA (s : State) : (endRecord s).begA = s.begA := rfl
@[simp] theorem endRecord_endA (s : State) : (endRecord s).endA = s.endA := rfl
@[simp] theorem endRecord_w (s : State) : (endRecord s).w = s.w := rfl
@[simp] theorem endRecord_rb (s : State) : (endRecord s).rb = s.rb := rfl
@[simp] theorem endRecord_h (s : State) : (endRecord s).h = s.h := rfl
@[simp] theorem endRecord_cap (s : State) : (endRecord s).cap = s.cap := rfl
@[simp] theorem endRecord_eff (s : State) : (endRecord s).eff = s.eff := rfl
@[simp] theorem endRecord_poff (s : State) : (endRecord s).poff = s.poff := rfl
@[simp] theorem endRecord_pal (s : State) : (endRecord s).pal = s.pal := rfl
@[simp] theorem endRecord_buf (s : State) : (endRecord s).buf = s.buf := rfl
@[simp] theorem endRecord_kc (s : State) : (endRecord s).kc = s.kc := rfl
@[simp] theorem endRecord_jc (s : State) : (endRecord s).jc = s.jc := rfl
@[simp] theorem endRecord_grp (s : State) : (endRecord s).grp = s.grp := rfl
@[simp] theorem endRecord_sw (s : State) : (endRecord s).sw = s.sw := rfl
@[simp] theorem endRecord_sh (s : State) : (endRecord s).sh = s.sh := rfl
@[simp] theorem endRecord_n (s : State) : (endRecord s).n = s.n := rfl

@[simp] theorem openRecord_tag (s : State) (c : Nat) (l : BitVec 7) : (openRecord s c l).tag = s.tag := rfl
@[simp] theorem openRecord_d (s : State) (c : Nat) (l : BitVec 7) : (openRecord s c l).d = s.d := rfl
@[simp] theorem openRecord_cfg (s : State) (c : Nat) (l : BitVec 7) : (openRecord s c l).cfg = s.cfg := rfl
@[simp] theorem openRecord_p (s : State) (c : Nat) (l : BitVec 7) : (openRecord s c l).p = s.p := rfl
@[simp] theorem openRecord_res (s : State) (c : Nat) (l : BitVec 7) : (openRecord s c l).res = s.res := rfl
@[simp] theorem openRecord_op (s : State) (c : Nat) (l : BitVec 7) : (openRecord s c l).op = s.op := rfl
@[simp] theorem openRecord_pt (s : State) (c : Nat) (l : BitVec 7) : (openRecord s c l).pt = s.pt := rfl
@[simp] theorem openRecord_cur (s : State) (c : Nat) (l : BitVec 7) : (openRecord s c l).cur = some (c + 1) := rfl
@[simp] theorem openRecord_txt (s : State) (c : Nat) (l : BitVec 7) : (openRecord s c l).txt = s.txt := rfl
@[simp] theorem openRecord_pend (s : State) (c : Nat) (l : BitVec 7) : (openRecord s c l).pend = false := rfl
@[simp] theorem openRecord_lbl (s : State) (c : Nat) (l : BitVec 7) : (openRecord s c l).lbl = false := rfl
@[simp] theorem openRecord_tbl (s : State) (c : Nat) (l : BitVec 7) : (openRecord s c l).tbl = s.tbl := rfl
@[simp] theorem openRecord_rend (s : State) (c : Nat) (l : BitVec 7) : (openRecord s c l).rend = some (c + 1 + l.toNat) := rfl
@[simp] theorem openRecord_begA (s : State) (c : Nat) (l : BitVec 7) : (openRecord s c l).begA = s.begA := rfl
@[simp] theorem openRecord_endA (s : State) (c : Nat) (l : BitVec 7) : (openRecord s c l).endA = s.endA := rfl
@[simp] theorem openRecord_w (s : State) (c : Nat) (l : BitVec 7) : (openRecord s c l).w = s.w := rfl
@[simp] theorem openRecord_rb (s : State) (c : Nat) (l : BitVec 7) : (openRecord s c l).rb = s.rb := rfl
@[simp] theorem openRecord_h (s : State) (c : Nat) (l : BitVec 7) : (openRecord s c l).h = s.h := rfl
@[simp] theorem openRecord_cap (s : State) (c : Nat) (l : BitVec 7) : (openRecord s c l).cap = s.cap := rfl
@[simp] theorem openRecord_eff (s : State) (c : Nat) (l : BitVec 7) : (openRecord s c l).eff = s.eff := rfl
@[simp] theorem openRecord_poff (s : State) (c : Nat) (l : BitVec 7) : (openRecord s c l).poff = s.poff := rfl
@[simp] theorem openRecord_pal (s : State) (c : Nat) (l : BitVec 7) : (openRecord s c l).pal = s.pal := rfl
@[simp] theorem openRecord_buf (s : State) (c : Nat) (l : BitVec 7) : (openRecord s c l).buf = s.buf := rfl
@[simp] theorem openRecord_kc (s : State) (c : Nat) (l : BitVec 7) : (openRecord s c l).kc = s.kc := rfl
@[simp] theorem openRecord_jc (s : State) (c : Nat) (l : BitVec 7) : (openRecord s c l).jc = s.jc := rfl
@[simp] theorem openRecord_grp (s : State) (c : Nat) (l : BitVec 7) : (openRecord s c l).grp = s.grp := rfl
@[simp] theorem openRecord_sw (s : State) (c : Nat) (l : BitVec 7) : (openRecord s c l).sw = s.sw := rfl
@[simp] theorem openRecord_sh (s : State) (c : Nat) (l : BitVec 7) : (openRecord s c l).sh = s.sh := rfl
@[simp] theorem openRecord_n (s : State) (c : Nat) (l : BitVec 7) : (openRecord s c l).n = s.n := rfl

end Sys2Proof.Machine
end

