-- ==== Sys2Proof/Laws/Control.lean ====
section
/-! SUPPORT. What each shared operation of the control flow can do, said once: if it answers a next state, then it is one of
these, with the registers it read. -/

namespace Sys2Proof.Machine

/-! ### Reading registers and loop variables -/

@[simp] theorem demand_some {α : Type} (r : Reg) (a : α) : demand r (some a) = .ok a := rfl

@[simp] theorem demand_none {α : Type} (r : Reg) : demand r (none : Option α) = .error (.unset r) := rfl

/-- A register that is set is read; one that is not stops the machine (R40). -/
theorem need_next {α : Type} {r : Reg} {o : Option α} {k : α → Out} {t : State} :
    need r o k = .next t ↔ ∃ a, o = some a ∧ k a = .next t := by
  cases o <;> simp [need]

@[simp] theorem need_some {α : Type} (r : Reg) (a : α) (k : α → Out) : need r (some a) k = k a := rfl

theorem need_of {α : Type} {r : Reg} {o : Option α} {a : α} (h : o = some a) (k : α → Out) : need r o k = k a := by
  rw [h, need_some]

/-! The loop variables, where the block stands in the loop. -/

@[simp] theorem screenOf_screen (f : Screen) : screenOf (some (.screen f)) = some f := rfl

@[simp] theorem paletteIndexOf_paletteWord (src : PalSource) (i : Fin 16) :
    paletteIndexOf (.paletteWord src i) = some (src, i) := rfl

@[simp] theorem nibbleAddressOf_nibbles (a : Nat) : nibbleAddressOf (.nibbles a) = some a := rfl

@[simp] theorem rgbAddressOf_packedRgb (a : Nat) : rgbAddressOf (.packedRgb a) = some a := rfl

@[simp] theorem groupAddressOf_group (a : Nat) : groupAddressOf (.group a) = some a := rfl

@[simp] theorem groupPixelOf_groupPixel (a : Nat) (k : Fin 4) : groupPixelOf (.groupPixel a k) = some (a, k) := rfl

@[simp] theorem stampIndexOf_stampPair (i : Nat) : stampIndexOf (.stampPair i) = some i := rfl

@[simp] theorem prepassOffsetOf_prepass (p : Nat) : prepassOffsetOf (.prepass p) = some p := rfl

@[simp] theorem screenOf_eq_some {o : Option Operation} {f : Screen} : screenOf o = some f ↔ o = some (.screen f) := by
  unfold screenOf
  split <;> simp_all

theorem needScreen_next {s : State} {k : Screen → Out} {t : State} :
    needScreen s k = .next t ↔ ∃ f, s.op = some (.screen f) ∧ k f = .next t := by
  simp only [needScreen, need_next, screenOf_eq_some]

theorem needScreen_of {s : State} {f : Screen} (h : s.op = some (.screen f)) (k : Screen → Out) : needScreen s k = k f := by
  simp [needScreen, h]

theorem needPaletteIndex_of {s : State} {src : PalSource} {i : Fin 16} (h : s.pt = .paletteWord src i) (k : PalSource → Fin 16 → Out) :
    needPaletteIndex s k = k src i := by
  simp [needPaletteIndex, h]

theorem needPaletteIndex_next {s : State} {k : PalSource → Fin 16 → Out} {t : State} :
    needPaletteIndex s k = .next t ↔ ∃ src i, s.pt = .paletteWord src i ∧ k src i = .next t := by
  unfold needPaletteIndex paletteIndexOf
  split <;> simp_all [need_next]

theorem needNibbleAddress_of {s : State} {a : Nat} (h : s.pt = .nibbles a) (k : Nat → Out) :
    needNibbleAddress s k = k a := by
  simp [needNibbleAddress, h]

theorem needNibbleAddress_next {s : State} {k : Nat → Out} {t : State} :
    needNibbleAddress s k = .next t ↔ ∃ a, s.pt = .nibbles a ∧ k a = .next t := by
  unfold needNibbleAddress nibbleAddressOf
  split <;> simp_all [need_next]

theorem needRgbAddress_of {s : State} {a : Nat} (h : s.pt = .packedRgb a) (k : Nat → Out) :
    needRgbAddress s k = k a := by
  simp [needRgbAddress, h]

theorem needRgbAddress_next {s : State} {k : Nat → Out} {t : State} :
    needRgbAddress s k = .next t ↔ ∃ a, s.pt = .packedRgb a ∧ k a = .next t := by
  unfold needRgbAddress rgbAddressOf
  split <;> simp_all [need_next]

theorem needGroupAddress_of {s : State} {a : Nat} (h : s.pt = .group a) (k : Nat → Out) :
    needGroupAddress s k = k a := by
  simp [needGroupAddress, h]

theorem needGroupAddress_next {s : State} {k : Nat → Out} {t : State} :
    needGroupAddress s k = .next t ↔ ∃ a, s.pt = .group a ∧ k a = .next t := by
  unfold needGroupAddress groupAddressOf
  split <;> simp_all [need_next]

theorem needGroupPixel_of {s : State} {a : Nat} {j : Fin 4} (h : s.pt = .groupPixel a j) (k : Nat → Fin 4 → Out) :
    needGroupPixel s k = k a j := by
  simp [needGroupPixel, h]

theorem needGroupPixel_next {s : State} {k : Nat → Fin 4 → Out} {t : State} :
    needGroupPixel s k = .next t ↔ ∃ a j, s.pt = .groupPixel a j ∧ k a j = .next t := by
  unfold needGroupPixel groupPixelOf
  split <;> simp_all [need_next]

theorem needStampIndex_of {s : State} {i : Nat} (h : s.pt = .stampPair i) (k : Nat → Out) :
    needStampIndex s k = k i := by
  simp [needStampIndex, h]

theorem needStampIndex_next {s : State} {k : Nat → Out} {t : State} :
    needStampIndex s k = .next t ↔ ∃ i, s.pt = .stampPair i ∧ k i = .next t := by
  unfold needStampIndex stampIndexOf
  split <;> simp_all [need_next]

theorem needPrepassOffset_of {s : State} {p : Nat} (h : s.pt = .prepass p) (k : Nat → Out) :
    needPrepassOffset s k = k p := by
  simp [needPrepassOffset, h]

theorem needPrepassOffset_next {s : State} {k : Nat → Out} {t : State} :
    needPrepassOffset s k = .next t ↔ ∃ p, s.pt = .prepass p ∧ k p = .next t := by
  unfold needPrepassOffset prepassOffsetOf
  split <;> simp_all [need_next]

/-! ### Screens -/

theorem allSet_eq_some {α : Type} {os : List (Option α)} {xs : List α} : allSet os = some xs ↔ os = xs.map some := by
  induction os generalizing xs with
  | nil => cases xs <;> simp [allSet]
  | cons o rest ih =>
    cases o with
    | none => cases xs <;> simp [allSet]
    | some a =>
      cases xs with
      | nil => simp [allSet]
      | cons x xs => simp [allSet, ih, and_comm]

theorem allSet_of_isSome {α : Type} {os : List (Option α)} (h : ∀ o ∈ os, o.isSome = true) : ∃ xs, allSet os = some xs := by
  induction os with
  | nil => exact ⟨[], rfl⟩
  | cons o rest ih =>
    obtain ⟨xs, hxs⟩ := ih fun o' ho' => h o' (List.mem_cons_of_mem _ ho')
    obtain ⟨a, rfl⟩ := Option.isSome_iff_exists.1 (h o List.mem_cons_self)
    exact ⟨a :: xs, by simp [allSet, hxs]⟩

/-- The pixel loop's end delivers the finished buffer of its format. -/
theorem finishScreen_next {s t : State} :
    finishScreen s = .next t ↔ ∃ f b, s.op = some (.screen f) ∧ s.buf = some b ∧
      ((kindOf f = .rgba ∧ t = s.deliverImage b) ∨
        (kindOf f = .idx ∧ ∃ pal : List Rgb, s.pal.toList = pal.map some ∧ t = s.deliverImage { b with pal := pal.map solid })) := by
  simp only [finishScreen, needScreen_next, need_next]
  constructor
  · rintro ⟨f, hf, b, hb, h⟩
    refine ⟨f, b, hf, hb, ?_⟩
    cases hk : kindOf f with
    | idx =>
      simp only [hk, need_next] at h
      obtain ⟨pal, hp, h⟩ := h
      exact .inr ⟨rfl, pal, allSet_eq_some.1 hp, by simpa using h.symm⟩
    | rgba =>
      simp only [hk] at h
      exact .inl ⟨rfl, by simpa using h.symm⟩
  · rintro ⟨f, b, hf, hb, h⟩
    refine ⟨f, hf, b, hb, ?_⟩
    rcases h with ⟨hk, rfl⟩ | ⟨hk, pal, hp, rfl⟩
    · simp [hk]
    · simp [hk, allSet_eq_some.2 hp]

theorem startPixels_next {s t : State} :
    startPixels s = .next t ↔ ∃ f beg eff, s.op = some (.screen f) ∧ s.begA = some beg ∧ s.eff = some eff ∧
      ((∃ pt, firstItem f beg.toNat eff = some pt ∧ t = s.goto pt) ∨
        (firstItem f beg.toNat eff = none ∧ finishScreen s = .next t)) := by
  simp only [startPixels, needScreen_next, need_next]
  constructor
  · rintro ⟨f, hf, beg, hb, eff, he, h⟩
    refine ⟨f, beg, eff, hf, hb, he, ?_⟩
    revert h
    unfold firstItem
    cases variantOf f <;> dsimp only <;> split <;> simp_all [eq_comm]
  · rintro ⟨f, beg, eff, hf, hb, he, h⟩
    refine ⟨f, hf, beg, hb, eff, he, ?_⟩
    revert h
    unfold firstItem
    cases variantOf f <;> dsimp only <;> split <;> simp_all [eq_comm]

theorem nextNibbles_next {s t : State} {a : Nat} :
    nextNibbles s a = .next t ↔ ∃ eff, s.eff = some eff ∧
      ((a + 1 < eff ∧ t = s.goto (.nibbles (a + 1))) ∨ (eff ≤ a + 1 ∧ finishScreen s = .next t)) := by
  simp only [nextNibbles, need_next]
  refine exists_congr fun eff => and_congr_right fun _ => ?_
  split <;> simp_all [eq_comm]

theorem nextPackedRgb_next {s t : State} {a : Nat} :
    nextPackedRgb s a = .next t ↔ ∃ eff, s.eff = some eff ∧
      ((a + 1 < eff ∧ t = s.goto (.packedRgb (a + 1))) ∨ (eff ≤ a + 1 ∧ finishScreen s = .next t)) := by
  simp only [nextPackedRgb, need_next]
  refine exists_congr fun eff => and_congr_right fun _ => ?_
  split <;> simp_all [eq_comm]

theorem nextGroup_next {s t : State} {a : Nat} :
    nextGroup s a = .next t ↔ ∃ eff, s.eff = some eff ∧
      ((a + 8 ≤ eff ∧ t = s.goto (.group (a + 4))) ∨ (eff < a + 8 ∧ finishScreen s = .next t)) := by
  simp only [nextGroup, need_next]
  refine exists_congr fun eff => and_congr_right fun _ => ?_
  have : a + 4 + 4 = a + 8 := by omega
  rw [this]
  split <;> simp_all [eq_comm]

theorem nextGroupPixel_next {s t : State} {a : Nat} {k : Fin 4} :
    nextGroupPixel s a k = .next t ↔
      (∃ h : k.val + 1 < 4, t = s.goto (.groupPixel a ⟨k.val + 1, h⟩)) ∨ (k.val = 3 ∧ nextGroup s a = .next t) := by
  unfold nextGroupPixel
  have hk := k.isLt
  split
  · rename_i h
    have h3 : k.val ≠ 3 := by omega
    simp only [h3, false_and, or_false, Host.Outcome.next.injEq]
    exact ⟨fun e => ⟨h, e.symm⟩, fun ⟨_, e⟩ => e.symm⟩
  · rename_i h
    exact ⟨fun e => .inr ⟨by omega, e⟩, fun e => e.elim (fun ⟨h', _⟩ => absurd h' h) (·.2)⟩

theorem drawGroupPixel_next {s t : State} {c : Rgba} :
    drawGroupPixel s c = .next t ↔ ∃ a k w b, s.pt = .groupPixel a k ∧ s.w = some w ∧ s.buf = some b ∧
      nextGroupPixel (s.withBuf (b.write (rem (a + k.val) w) (quot (a + k.val) w) (.rgba c))) a k = .next t := by
  simp only [drawGroupPixel, needGroupPixel_next, need_next]
  grind

/-! ### Stamp -/

theorem finishStamp_next {s t : State} :
    finishStamp s = .next t ↔ ∃ b, s.buf = some b ∧ t = s.deliverImage (rowDup b) := by
  simp only [finishStamp, need_next]
  grind

theorem stampFrom_next {s t : State} {i : Nat} :
    stampFrom s i = .next t ↔ ∃ n, s.n = some n ∧
      ((i < n ∧ t = s.goto (.stampPair i)) ∨ (n ≤ i ∧ finishStamp s = .next t)) := by
  simp only [stampFrom, need_next]
  refine exists_congr fun n => and_congr_right fun _ => ?_
  split <;> simp_all [eq_comm]

theorem drawStamp_next {s t : State} {index : BitVec 4} :
    drawStamp index s = .next t ↔ ∃ i w b, s.pt = .stampPair i ∧ s.sw = some w ∧ s.buf = some b ∧
      stampFrom (s.withBuf (b.write (rem i w) (quot i w) (.idx index))) (i + 1) = .next t := by
  simp only [drawStamp, needStampIndex_next, need_next]
  grind

/-! ### BASIC -/

theorem tokenLoop_next {s t : State} :
    tokenLoop s = .next t ↔ ∃ cur, s.cur = some cur ∧
      ((cur < s.d.size ∧ t = s.goto .basToken) ∨ (s.d.size ≤ cur ∧ t = (s.emit [NL]).deliverText)) := by
  simp only [tokenLoop, need_next]
  refine exists_congr fun cur => and_congr_right fun _ => ?_
  split <;> simp_all [eq_comm]

theorem emitToken_next {s t : State} {x : Text} {len : Nat} :
    emitToken s x len = .next t ↔ ∃ cur, s.cur = some cur ∧ tokenLoop ((s.emit x).withCur (cur + len)) = .next t := by
  simp only [emitToken, need_next]

/-- A line's start ends the program, fails at a number that is cut off, or goes on with the line's tokens. -/
theorem startLine_next {s t : State} :
    startLine s = .next t ↔ ∃ cur, s.cur = some cur ∧
      ((s.d.size - cur < 2 ∧ t = s.deliverText) ∨
        (2 ≤ s.d.size - cur ∧
          ((s.d.read16 cur = none ∧ t = s.raiseRead cur) ∨
            (s.d.read16 cur = some 0 ∧ t = s.deliverText) ∨
            (∃ link, s.d.read16 cur = some link ∧ link ≠ 0 ∧
              ((s.d.read16 (cur + 2) = none ∧ t = s.raiseRead (cur + 2)) ∨
                (∃ ln, s.d.read16 (cur + 2) = some ln ∧
                  tokenLoop ((s.emit (dec ln.toNat ++ [SP])).withCur (cur + 4)) = .next t)))))) := by
  simp only [startLine, need_next]
  refine exists_congr fun cur => and_congr_right fun _ => ?_
  by_cases hs : s.d.size - cur < 2
  · simp only [hs, if_true, Host.Outcome.next.injEq]
    constructor
    · rintro rfl; exact .inl ⟨trivial, rfl⟩
    · rintro (⟨-, rfl⟩ | ⟨h, -⟩)
      · rfl
      · omega
  · have hs' : 2 ≤ s.d.size - cur := by omega
    simp only [hs, hs', if_false, false_and, false_or, true_and]
    cases h1 : s.d.read16 cur with
    | none => simp [@eq_comm _ t]
    | some link =>
      by_cases hl : link = 0#16
      · simp [hl, @eq_comm _ t]
      · cases h2 : s.d.read16 (cur + 2) <;> simp [hl, @eq_comm _ t]

/-! ### WBASS2 -/

theorem scanLoop_next {s t : State} :
    scanLoop s = .next t ↔ ∃ cur rend, s.cur = some cur ∧ s.rend = some rend ∧
      ((cur < rend ∧ t = s.goto .operand) ∨ (rend ≤ cur ∧ t = endRecord s)) := by
  simp only [scanLoop, need_next]
  constructor
  · rintro ⟨cur, hc, rend, hr, h⟩
    refine ⟨cur, rend, hc, hr, ?_⟩
    by_cases hlt : cur < rend <;> simp_all [eq_comm]
  · rintro ⟨cur, rend, hc, hr, h⟩
    refine ⟨cur, hc, rend, hr, ?_⟩
    rcases h with ⟨hlt, rfl⟩ | ⟨hle, rfl⟩
    · simp [hlt]
    · simp [Nat.not_lt.2 hle]

theorem scanFrom_next {s t : State} {len : Nat} :
    scanFrom s len = .next t ↔ ∃ cur, s.cur = some cur ∧ scanLoop (s.withCur (cur + len)) = .next t := by
  simp only [scanFrom, need_next]

theorem endAtRend_next {s t : State} :
    endAtRend s = .next t ↔ ∃ rend, s.rend = some rend ∧ t = endRecord (s.withCur rend) := by
  simp only [endAtRend, need_next]
  grind

end Sys2Proof.Machine
end

