-- ==== Sys2Proof/Laws/Ends.lean ====
section
/-! SUPPORT. Where each shared operation of the control flow completes: the next state it answers, once the registers it reads
are set. -/

namespace Sys2Proof.Machine

/-! ### Screens and stamps -/

/-- The end of a pixel loop ends the picture (R100 to R104). -/
theorem finishScreen_ends {s : State} {f : Screen} {b : Buf} (hf : s.op = some (.screen f)) (hb : s.buf = some b) :
    EndsPicture s f b (finishScreen s) := by
  intro colours hp
  rw [finishScreen_next]
  refine ⟨f, b, hf, hb, ?_⟩
  unfold finishedBuf
  cases hk : kindOf f with
  | idx => exact .inr ⟨rfl, colours, hp hk, rfl⟩
  | rgba => exact .inl ⟨rfl, rfl⟩

/-- The pixel loop starts at its first item, or ends at once (R92, R94, R99). -/
theorem startPixels_of {s : State} {f : Screen} {beg : Word16} {eff : Nat} {b : Buf} (hf : s.op = some (.screen f))
    (hg : s.begA = some beg) (he : s.eff = some eff) (hb : s.buf = some b) :
    StartsPixels s f beg.toNat eff b (startPixels s) := by
  unfold StartsPixels
  cases hi : firstItem f beg.toNat eff with
  | some pt => exact startPixels_next.2 ⟨f, beg, eff, hf, hg, he, .inl ⟨pt, hi, rfl⟩⟩
  | none =>
    intro colours hp
    exact startPixels_next.2 ⟨f, beg, eff, hf, hg, he, .inr ⟨hi, finishScreen_ends hf hb colours hp⟩⟩

/-- The resolver chooses its source; `POFF` is what the preamble wrote (R28, R78). -/
theorem palResolve_of {s : State} {f : Screen} {beg fin : Word16} (hf : s.op = some (.screen f)) (hb : s.begA = some beg)
    (he : s.endA = some fin) (hp : s.poff = some (paletteOffsetOf s.p f)) :
    palResolve s =
      match paletteOffsetOf s.p f with
      | none => palFallback s
      | some po =>
        if po.toNat ≤ fin.toNat then
          match phys beg.toNat po.toNat with
          | none => .next (s.raise .truncatedPayload po.toNat)
          | some base =>
            if s.d.size < base + 32 then .next (s.raise .truncatedPayload base)
            else .next (s.goto (.paletteWord (.embedded base) 0))
        else palFallback s := by
  have h : ({ s with poff := some (paletteOffsetOf s.p f) } : State) = s := by rw [← hp]
  rw [palResolve, needScreen_of hf, need_of hb, need_of he]
  dsimp only
  generalize ({ s with poff := some (paletteOffsetOf s.p f) } : State) = s' at h ⊢
  subst h
  rfl

/-- The chroma value of two bytes, as arithmetic (R13, R95). -/
theorem sext6_chromaBits (a b : Byte) : sext6 (chromaBits a b) = chromaOf a b := by
  have h : (chromaBits a b).toNat = a.toNat % 8 + 8 * (b.toNat % 8) := by
    simp only [chromaBits, BitVec.toNat_append, BitVec.extractLsb'_toNat]
    have h1 : a.toNat >>> 0 % 2 ^ 3 < 2 ^ 3 := Nat.mod_lt _ (by decide)
    rw [← Nat.shiftLeft_add_eq_or_of_lt h1, Nat.shiftLeft_eq]
    simp
    omega
  simp [sext6, chromaOf, h]

/-- A group pixel draws one cell and goes on (R96, R97, R99). -/
theorem drawGroupPixel_of {s : State} {a w : Nat} {k : Fin 4} {b : Buf} {c : Rgba} (hpt : s.pt = .groupPixel a k)
    (hw : s.w = some w) (hb : s.buf = some b) : DrawsGroupPixel s a k w b c (drawGroupPixel s c) := by
  simp only [drawGroupPixel, needGroupPixel_of hpt, hw, hb, need_some, DrawsGroupPixel]
  refine ⟨fun h => ?_, fun h eff he => ⟨fun h8 => ?_, fun h8 f hf => ?_⟩⟩
  · simp [nextGroupPixel, h, State.goto, State.withBuf, hw]
  · have h' : ¬ (k.val + 1 < 4) := by omega
    have h8' : a + 4 + 4 ≤ eff := by omega
    simp [nextGroupPixel, h', nextGroup, he, h8', State.goto, State.withBuf, hw]
  · have h' : ¬ (k.val + 1 < 4) := by omega
    have h8' : ¬ (a + 4 + 4 ≤ eff) := by omega
    simp only [nextGroupPixel, h', dif_neg, not_false_eq_true, nextGroup, State.withBuf_eff, he, need_some, h8', if_false]
    exact @finishScreen_ends (s.withBuf _) f _ hf rfl

/-- A stamp pair draws one cell and goes on (R107, R108). -/
theorem drawStamp_of {s : State} {i w n : Nat} {b : Buf} {v : BitVec 4} (hpt : s.pt = .stampPair i) (hw : s.sw = some w)
    (hb : s.buf = some b) (hn : s.n = some n) : DrawsStampPixel s i w n b v (drawStamp v s) := by
  simp only [drawStamp, needStampIndex_of hpt, hw, hb, need_some, DrawsStampPixel]
  refine ⟨fun h => ?_, fun h => ?_⟩
  · simp [stampFrom, hn, h, State.goto, State.withBuf, hw]
  · simp [stampFrom, hn, Nat.not_lt.2 h, finishStamp]; rfl

/-! ### Walkers -/

/-- A BASIC token that has emitted its text goes on at the next byte, or ends the listing (R110). -/
theorem tokenLoop_of (s : State) (x : Text) (c : Nat) :
    tokenLoop ((s.emit x).withCur c) = .next (s.afterToken x c) := by
  by_cases h : c < s.d.size
  · simp [tokenLoop, State.withCur, State.emit, State.afterToken, h, State.goto]
  · simp [tokenLoop, State.withCur, State.emit, State.afterToken, h, State.deliverText, State.deliver, State.listed]

/-- A BASIC token completes wherever `cur` is set (R113 to R122). -/
theorem emitToken_of {s : State} {c : Nat} (h : s.cur = some c) (x : Text) (len : Nat) :
    emitToken s x len = .next (s.afterToken x (c + len)) := by
  simp only [emitToken, h, need_some, tokenLoop, State.withCur, State.emit, State.afterToken]
  split <;> rfl

/-- A BASIC line begins wherever `cur` is set (R110). -/
theorem startLine_of {s : State} {c : Nat} (hc : s.cur = some c) : StartsLine s s.txt c (startLine s) := by
  have hs : ({ s with cur := some c } : State) = s := by rw [← hc]
  have hl1 : ∀ x, ({ s with cur := some c } : State).listed x = s.listed x := fun x => by rw [hs]
  have hl2 : ∀ x y, ({ s with cur := some c } : State).failed x y = s.failed x y := fun x y => by rw [hs]
  refine ⟨fun h => ?_, fun h h2 => ?_, fun link h h2 hl h3 => ⟨Config.memReadInfo s.d (c+2), ?_⟩, fun link ln h h2 hl h3 => ?_⟩
  · rw [hl1]; have : s.d.size - c < 2 := by omega
    simp only [startLine, hc, need_some, this, if_true]; rfl
  · rw [hl1]; have : ¬ s.d.size - c < 2 := by omega
    simp only [startLine, hc, need_some, this, if_false, h2, if_true]; rfl
  · rw [hl2]; have : ¬ s.d.size - c < 2 := by omega
    simp only [startLine, hc, need_some, this, if_false, h2, h3]; rw [if_neg hl]; rfl
  · have : ¬ s.d.size - c < 2 := by omega
    simp only [startLine, hc, need_some, this, if_false, h2, h3]; rw [if_neg hl]
    exact tokenLoop_of s _ _

/-- An operand that has emitted its text goes on at the next operand, or ends its record (R138, R144). -/
theorem scanLoop_of {s : State} {c r : Nat} {x : Text} {pd : Bool} (hr : s.rend = some r) :
    scanLoop { s with txt := s.txt ++ x, pend := pd, cur := some c } = .next (s.afterOperand x pd c r) := by
  simp only [scanLoop, hr, need_some, State.afterOperand]
  split <;> rfl

/-- An operand atom completes wherever `cur` and `REND` are set (R147 to R151). -/
theorem scanFrom_atom {s : State} {c r : Nat} (hc : s.cur = some c) (hr : s.rend = some r) (x : Text) (len : Nat) :
    scanFrom (s.emitAtom x) len = .next (s.afterOperand (owedSpace s.pend ++ x) true (c + len) r) := by
  simp only [scanFrom, State.emitAtom_cur, hc, need_some]
  exact scanLoop_of hr

end Sys2Proof.Machine
end

