-- ==== Sys2Proof/Laws/Items.lean ====
section
/-! SUPPORT. What each item can do, said once: if its meaning answers a next state, then that state is one of these named
updates. Frames and invariants follow by cases, without unfolding a meaning again. -/

namespace Sys2Proof.Machine

/-- A drawing item goes on at another place, or delivers a picture. -/
def Goes (s t : State) : Prop := (∃ pt, pt ≠ .dispatch ∧ t = s.goto pt) ∨ ∃ b, t = s.deliverImage b

/-- A BASIC item goes on at a token, or delivers the text. -/
def Lists (s t : State) : Prop := t = s.goto .basToken ∨ t = (s.emit [NL]).deliverText

/-- An operand goes on at an operand, or ends its record. -/
def Scans (s t : State) : Prop := t = s.goto .operand ∨ t = endRecord s

theorem goes_of {s t : State} {pt : Point} (h : Host.Outcome.next (s.goto pt) = (.next t : Out)) (hp : pt ≠ .dispatch) :
    Goes s t :=
  .inl ⟨pt, hp, (Host.Outcome.next.inj h).symm⟩

theorem emit_emit (s : State) (x y : Text) : (s.emit x).emit y = s.emit (x ++ y) := by
  simp only [State.emit, List.append_assoc]

theorem withCur_emit (s : State) (x : Text) (c : Nat) : (s.withCur c).emit x = (s.emit x).withCur c := rfl

theorem finishScreen_goes {s t : State} (h : finishScreen s = .next t) : Goes s t := by
  obtain ⟨f, b, -, -, ⟨-, rfl⟩ | ⟨-, pal, -, rfl⟩⟩ := finishScreen_next.1 h
  · exact .inr ⟨_, rfl⟩
  · exact .inr ⟨_, rfl⟩

theorem firstItem_ne_dispatch {f : Screen} {beg eff : Nat} {pt : Point} (h : firstItem f beg eff = some pt) :
    pt ≠ .dispatch := by
  unfold firstItem at h
  rintro rfl
  split at h <;> split at h <;> simp_all

theorem startPixels_goes {s t : State} (h : startPixels s = .next t) : Goes s t := by
  obtain ⟨f, beg, eff, -, -, -, ⟨pt, hp, rfl⟩ | ⟨-, h⟩⟩ := startPixels_next.1 h
  · exact .inl ⟨pt, firstItem_ne_dispatch hp, rfl⟩
  · exact finishScreen_goes h

theorem nextNibbles_goes {s t : State} {a : Nat} (h : nextNibbles s a = .next t) : Goes s t := by
  obtain ⟨eff, -, ⟨-, rfl⟩ | ⟨-, h⟩⟩ := nextNibbles_next.1 h
  · exact .inl ⟨_, by simp, rfl⟩
  · exact finishScreen_goes h

theorem nextPackedRgb_goes {s t : State} {a : Nat} (h : nextPackedRgb s a = .next t) : Goes s t := by
  obtain ⟨eff, -, ⟨-, rfl⟩ | ⟨-, h⟩⟩ := nextPackedRgb_next.1 h
  · exact .inl ⟨_, by simp, rfl⟩
  · exact finishScreen_goes h

theorem nextGroupPixel_goes {s t : State} {a : Nat} {k : Fin 4} (h : nextGroupPixel s a k = .next t) : Goes s t := by
  obtain ⟨h4, rfl⟩ | ⟨-, h⟩ := nextGroupPixel_next.1 h
  · exact .inl ⟨_, by simp, rfl⟩
  · obtain ⟨eff, -, ⟨-, rfl⟩ | ⟨-, h⟩⟩ := nextGroup_next.1 h
    · exact .inl ⟨_, by simp, rfl⟩
    · exact finishScreen_goes h

theorem stampFrom_goes {s t : State} {i : Nat} (h : stampFrom s i = .next t) : Goes s t := by
  obtain ⟨n, -, ⟨-, rfl⟩ | ⟨-, h⟩⟩ := stampFrom_next.1 h
  · exact .inl ⟨_, by simp, rfl⟩
  · obtain ⟨b, -, rfl⟩ := finishStamp_next.1 h
    exact .inr ⟨_, rfl⟩

theorem tokenLoop_lists {s t : State} (h : tokenLoop s = .next t) : Lists s t := by
  obtain ⟨cur, -, ⟨-, rfl⟩ | ⟨-, rfl⟩⟩ := tokenLoop_next.1 h
  · exact .inl rfl
  · exact .inr rfl

theorem scanLoop_scans {s t : State} (h : scanLoop s = .next t) : Scans s t := by
  obtain ⟨cur, rend, -, -, ⟨-, rfl⟩ | ⟨-, rfl⟩⟩ := scanLoop_next.1 h
  · exact .inl rfl
  · exact .inr rfl

/-! ### What is read at each place, where the registers it takes are set -/

theorem screenBytes_of {s : State} {beg : Word16} {a : Nat} (hb : s.begA = some beg) (ha : beg.toNat ≤ a) (n : Nat) :
    screenBytes s a n = .ok (s.d.run (7 + (a - beg.toNat)) n) := by
  simp [screenBytes, Except.bind, hb, phys, ha]

theorem recordBytes_of {s : State} {c r : Nat} (hc : s.cur = some c) (hr : s.rend = some r) :
    recordBytes s = .ok (s.d.run c (r - c)) := by
  simp [recordBytes, Except.bind, Except.map, hc, hr]

theorem nextBytes_paletteWord_external {s : State} {i : Fin 16} {e : Memory} (h : s.pt = .paletteWord .external i)
    (he : s.cfg.ext = some e) : nextBytes s = .ok (e.run (2 * i.val) 2) := by
  simp [nextBytes, Except.map, h, he]

theorem nextBytes_groupPixel {s : State} {a : Nat} {k : Fin 4} {g : Vector Byte 4} (h : s.pt = .groupPixel a k)
    (hg : s.grp = some g) : nextBytes s = .ok [g[k.val]] := by
  simp [nextBytes, Except.map, h, hg]

theorem nextBytes_basToken {s : State} {c : Nat} (h : s.pt = .basToken) (hc : s.cur = some c) :
    nextBytes s = .ok (s.d.tail c) := by
  simp [nextBytes, Except.map, h, hc]

theorem nextBytes_bcd {s : State} {c : Nat} (h : s.pt = .bcd) (hc : s.cur = some c) : nextBytes s = .ok (s.d.run c 4) := by
  simp [nextBytes, Except.map, h, hc]

theorem nextBytes_recordLength {s : State} {c : Nat} (h : s.pt = .recordLength) (hc : s.cur = some c) :
    nextBytes s = .ok (s.d.run c 1) := by
  simp [nextBytes, Except.map, h, hc]

theorem nextBytes_labelSlot {s : State} {idx : Word16} {t : Nat} (h : s.pt = .labelSlot idx) (ht : s.tbl = some t) :
    nextBytes s = .ok (s.d.run (t + 8 * idx.toNat) 6) := by
  simp [nextBytes, Except.map, h, ht]

/-! ### Which instructions an invocation meets -/

theorem decodeBasToken_isItem {bs rest : List Byte} {i : Instr} (h : decodeBasToken bs = .ok (i, rest)) : isItem i = true := by
  unfold decodeBasToken at h
  split at h
  · cases h
  · repeat' (split at h)
    all_goals cases h
    all_goals rfl

theorem decodeOperand16_isItem {f : Word16 → Instr} (hf : ∀ v, isItem (f v) = true) {bs rest : List Byte} {i : Instr}
    (h : decodeOperand16 f bs = .ok (i, rest)) : isItem i = true := by
  unfold decodeOperand16 at h
  split at h
  · cases h; exact hf _
  · cases h

theorem decodeOperand_isItem {bs rest : List Byte} {i : Instr} (h : decodeOperand bs = .ok (i, rest)) : isItem i = true := by
  unfold decodeOperand at h
  split at h
  · cases h
  · repeat' (split at h)
    all_goals first
      | (cases h; rfl)
      | exact decodeOperand16_isItem (fun _ => rfl) h

/-- No place but the tag spells an operation (R55). -/
theorem decode_isItem {pl : Place} {bs rest : List Byte} {i : Instr} (hp : ∀ t, pl ≠ .operation t)
    (h : decode pl bs = .ok (i, rest)) : isItem i = true := by
  unfold decode at h
  split at h
  · exact absurd rfl (hp _)
  all_goals first
    | exact decodeBasToken_isItem h
    | exact decodeOperand_isItem h
    | (cases h; done)
    | (cases h; rfl)
    | skip
  all_goals first
    | (unfold decodeLead at h; (repeat' (split at h)) <;> first | (cases h; done) | (cases h; rfl))
    | ((repeat' (split at h)) <;> first | (cases h; done) | (cases h; rfl))
    | (cases h; simp only [decodeGroupPixel]; split <;> rfl)
    | (cases h; simp only [decodeStampPair]; (repeat' split) <;> rfl)
    | (cases h; simp only [decodeLength]; (repeat' split) <;> rfl)

/-- An invocation in progress runs items alone (R2, R55). -/
theorem nextItem_isItem {s : State} {bs rest : List Byte} {i : Instr} (hs : s.pt ≠ .dispatch)
    (h : decode (placeOf s) bs = .ok (i, rest)) : isItem i = true := by
  refine decode_isItem (fun t ht => hs ?_) h
  unfold placeOf at ht
  split at ht <;> first | assumption | cases ht

/-- An item is run by its meaning (R177). -/
theorem runItem_eq_exec {i : Instr} (h : isItem i = true) (s : State) : runItem i s = exec i s := by
  cases i <;> first | rfl | cases h

/-! ### Screen and stamp items -/

theorem palFallback_goes {s t : State} (h : palFallback s = .next t) :
    Goes s t ∨ (∃ info, t = s.raise .truncatedPayload info) ∨ Goes { s with pal := s.p.defpal.map some } t := by
  unfold palFallback at h
  split at h
  · split at h
    · exact .inr (.inl ⟨_, (Host.Outcome.next.inj h).symm⟩)
    · exact .inl (goes_of h (by simp))
  · exact .inr (.inr (startPixels_goes h))

theorem palResolve_goes {s t : State} (h : palResolve s = .next t) :
    ∃ po, let s' : State := { s with poff := some po }
      Goes s' t ∨ (∃ info, t = s'.raise .truncatedPayload info) ∨ Goes { s' with pal := s.p.defpal.map some } t := by
  simp only [palResolve, needScreen_next, need_next] at h
  obtain ⟨f, -, beg, -, fin, -, h⟩ := h
  refine ⟨paletteOffsetOf s.p f, ?_⟩
  split at h
  · exact palFallback_goes h
  · split at h
    · split at h
      · exact .inr (.inl ⟨_, (Host.Outcome.next.inj h).symm⟩)
      · split at h
        · exact .inr (.inl ⟨_, (Host.Outcome.next.inj h).symm⟩)
        · exact .inl (goes_of h (by simp))
    · exact palFallback_goes h

theorem execPalword_next {r g b : BitVec 3} {s t : State} (h : execPalword r g b s = .next t) :
    ∃ (src : PalSource) (i : Fin 16), s.pt = .paletteWord src i ∧
      Goes { s with pal := s.pal.set i (some (palWord s.p r g b)) } t := by
  simp only [execPalword, needPaletteIndex_next] at h
  obtain ⟨src, i, hpt, h⟩ := h
  refine ⟨src, i, hpt, ?_⟩
  split at h
  · exact goes_of h (by simp)
  · exact startPixels_goes h

theorem execNib_next {hi lo : BitVec 4} {s t : State} (h : execNib hi lo s = .next t) :
    ∃ (a rb : Nat) (b : Buf), s.pt = .nibbles a ∧ s.rb = some rb ∧ s.buf = some b ∧
      nextNibbles (s.withBuf ((b.write (2 * rem a rb) (quot a rb) (.idx hi)).write (2 * rem a rb + 1) (quot a rb) (.idx lo)))
        a = .next t := by
  simp only [execNib, needNibbleAddress_next, need_next] at h
  obtain ⟨a, h1, rb, h2, b, h3, h⟩ := h
  exact ⟨a, rb, b, h1, h2, h3, h⟩

theorem execRgb8_next {g r : BitVec 3} {bl : BitVec 2} {s t : State} (h : execRgb8 g r bl s = .next t) :
    ∃ (a w : Nat) (b : Buf), s.pt = .packedRgb a ∧ s.w = some w ∧ s.buf = some b ∧
      nextPackedRgb (s.withBuf (b.write (rem a w) (quot a w) (.rgba (rgb8Colour s.p g r bl)))) a = .next t := by
  simp only [execRgb8, needRgbAddress_next, need_next] at h
  obtain ⟨a, h1, w, h2, b, h3, h⟩ := h
  exact ⟨a, w, b, h1, h2, h3, h⟩

theorem execYjkgrp_next {g0 g1 g2 g3 : Byte} {s t : State} (h : execYjkgrp g0 g1 g2 g3 s = .next t) :
    ∃ a, s.pt = .group a ∧ t = ({ s with
      grp := some #v[g0, g1, g2, g3]
      kc := some (sext6 (chromaBits g0 g1))
      jc := some (sext6 (chromaBits g2 g3)) } : State).goto (.groupPixel a 0) := by
  simp only [execYjkgrp, needGroupAddress_next] at h
  obtain ⟨a, h1, h⟩ := h
  exact ⟨a, h1, (Host.Outcome.next.inj h).symm⟩

theorem execYae_next {idx : BitVec 4} {s t : State} (h : execYae idx s = .next t) : ∃ c, drawGroupPixel s c = .next t := by
  simp only [execYae, need_next] at h
  obtain ⟨c, -, h⟩ := h
  exact ⟨_, h⟩

theorem execYjk_next {y : BitVec 5} {s t : State} (h : execYjk y s = .next t) : ∃ c, drawGroupPixel s c = .next t := by
  simp only [execYjk, need_next] at h
  obtain ⟨jc, -, kc, -, h⟩ := h
  exact ⟨_, h⟩

theorem execScrhdr_next {beg fin : Word16} {s t : State} (h : execScrhdr beg fin s = .next t) :
    ∃ f, s.op = some (.screen f) ∧
      ((fin.toNat < beg.toNat ∧
          t = ({ s with begA := some beg, endA := some fin } : State).raise .malformedHeader beg.toNat) ∨
        (beg.toNat ≤ fin.toNat ∧ beg.toNat < pictureEnd f s fin ∧ s.d.size < 7 + (pictureEnd f s fin - beg.toNat) ∧
          t = (s.afterHeader f beg fin).raise .truncatedPayload (pictureEnd f s fin)) ∨
        (beg.toNat ≤ fin.toNat ∧
          (pictureEnd f s fin ≤ beg.toNat ∨ 7 + (pictureEnd f s fin - beg.toNat) ≤ s.d.size) ∧
          ((resolvesPalette f = true ∧ palResolve (s.afterPreamble f beg fin) = .next t) ∨
            (resolvesPalette f = false ∧ startPixels (s.afterPreamble f beg fin) = .next t)))) := by
  simp only [execScrhdr, needScreen_next] at h
  obtain ⟨f, hf, h⟩ := h
  refine ⟨f, hf, ?_⟩
  by_cases h1 : fin.toNat < beg.toNat
  · rw [if_pos h1] at h
    exact .inl ⟨h1, (Host.Outcome.next.inj h).symm⟩
  · rw [if_neg h1] at h
    by_cases h2 : beg.toNat < pictureEnd f s fin ∧ s.d.size < 7 + (pictureEnd f s fin - beg.toNat)
    · erw [if_pos h2] at h
      exact .inr (.inl ⟨by omega, h2.1, h2.2, (Host.Outcome.next.inj h).symm⟩)
    · erw [if_neg h2] at h
      refine .inr (.inr ⟨by omega, by omega, ?_⟩)
      by_cases h3 : resolvesPalette f = true
      · rw [if_pos h3] at h
        exact .inl ⟨h3, h⟩
      · rw [if_neg h3] at h
        exact .inr ⟨by simpa using h3, h⟩

theorem execStphdr_next {sw sh : Word16} {s t : State} (h : execStphdr sw sh s = .next t) :
    let n := sw.toNat * sh.toNat
    let s' : State := { s with sw := some sw.toNat, sh := some sh.toNat, n := some n }
    (s.d.size < 4 + ceilDiv n 4 ∧ t = s'.raise .truncatedPayload n) ∨
      (4 + ceilDiv n 4 ≤ s.d.size ∧
        stampFrom (s'.withBuf (Buf.new .idx sw.toNat sh.toNat stampPalette)) 0 = .next t) := by
  unfold execStphdr at h
  by_cases h1 : s.d.size < 4 + ceilDiv (sw.toNat * sh.toNat) 4
  · erw [if_pos h1] at h
    exact .inl ⟨h1, (Host.Outcome.next.inj h).symm⟩
  · erw [if_neg h1] at h
    exact .inr ⟨by omega, h⟩

theorem execStphi_next {low : BitVec 1} {s t : State} (h : execStphi low s = .next t) :
    t = s.refuse .stampValue ∨ ∃ v, drawStamp v s = .next t := by
  unfold execStphi at h
  split at h
  · exact .inl ((Host.Outcome.next.inj h).symm)
  · exact .inr ⟨_, h⟩

/-! ### BASIC items -/

theorem emitToken_lists {s t : State} {x : Text} {len : Nat} (h : emitToken s x len = .next t) :
    ∃ cur, s.cur = some cur ∧ Lists ((s.emit x).withCur (cur + len)) t := by
  obtain ⟨cur, hc, h⟩ := emitToken_next.1 h
  exact ⟨cur, hc, tokenLoop_lists h⟩

/-- A line's start delivers the text, fails at a number that is cut off, or goes on behind a line number. -/
theorem startLine_lists {s t : State} (h : startLine s = .next t) :
    t = s.deliverText ∨ (∃ off, t = s.raiseRead off) ∨
      ∃ cur x, s.cur = some cur ∧ Lists ((s.emit x).withCur (cur + 4)) t := by
  obtain ⟨cur, hc, ⟨-, rfl⟩ | ⟨-, ⟨-, rfl⟩ | ⟨-, rfl⟩ | ⟨link, -, -, ⟨-, rfl⟩ | ⟨ln, -, h⟩⟩⟩⟩ := startLine_next.1 h
  · exact .inl rfl
  · exact .inr (.inl ⟨_, rfl⟩)
  · exact .inl rfl
  · exact .inr (.inl ⟨_, rfl⟩)
  · exact .inr (.inr ⟨cur, _, hc, tokenLoop_lists h⟩)

theorem execBasEol_next {s t : State} (h : execBasEol s = .next t) :
    ∃ cur, s.cur = some cur ∧ startLine ((s.emit [NL]).withCur (cur + 1)) = .next t := by
  simpa only [execBasEol, need_next] using h

theorem execBasUnl_next {b : Byte} {s t : State} (h : execBasUnl b s = .next t) :
    (∃ u, t = s.refuse u) ∨ ∃ x, emitToken s x 1 = .next t := by
  unfold execBasUnl at h
  split at h
  · obtain ⟨cur, -, h⟩ := need_next.1 h
    exact .inl ⟨_, (Host.Outcome.next.inj h).symm⟩
  · exact .inr ⟨_, h⟩

/-! ### WBASS2 items -/

theorem execWbPrepass_next {l : Byte} {s t : State} (h : execWbPrepass l s = .next t) :
    ∃ p, s.pt = .prepass p ∧
      ((l = 0xFF ∧ t = ({ s with tbl := some (p + 1), cur := some 1 } : State).goto .recordLength) ∨
        (l ≠ 0xFF ∧ t = s.goto (.prepass (p + 1 + (l.extractLsb' 0 7).toNat)))) := by
  simp only [execWbPrepass, needPrepassOffset_next] at h
  obtain ⟨p, hp, h⟩ := h
  refine ⟨p, hp, ?_⟩
  split at h
  · rename_i hl
    exact .inl ⟨hl, (Host.Outcome.next.inj h).symm⟩
  · rename_i hl
    exact .inr ⟨hl, (Host.Outcome.next.inj h).symm⟩

theorem execWbBlank_next {s t : State} (h : execWbBlank s = .next t) :
    ∃ cur, s.cur = some cur ∧ t = endRecord (s.clearFlags.withCur (cur + 1)) := by
  simp only [execWbBlank, need_next] at h
  obtain ⟨cur, hc, h⟩ := h
  exact ⟨cur, hc, (Host.Outcome.next.inj h).symm⟩

theorem execWbRec_next {l : BitVec 7} {s t : State} (h : execWbRec l s = .next t) :
    ∃ cur, s.cur = some cur ∧ t = (openRecord s cur l).goto .lead := by
  simp only [execWbRec, need_next] at h
  obtain ⟨cur, hc, h⟩ := h
  exact ⟨cur, hc, (Host.Outcome.next.inj h).symm⟩

/-- A record with a label fails before its index is read, or behind it; else it ends at once, or goes on with its lead. -/
theorem execWbLrec_next {l : BitVec 7} {s t : State} (h : execWbLrec l s = .next t) :
    ∃ cur, s.cur = some cur ∧
      ((∃ e info, t = (openRecord s cur l).raise e info ∨ t = ((openRecord s cur l).withCur (cur + 1 + 2)).raise e info) ∨
        (2 ≤ l.toNat ∧ ∃ x, let s' := (((openRecord s cur l).withCur (cur + 1 + 2)).emit x).setLbl
          (l.toNat = 2 ∧ t = endRecord s') ∨ (2 < l.toNat ∧ t = s'.goto .lead))) := by
  simp only [execWbLrec, need_next] at h
  obtain ⟨cur, hc, h⟩ := h
  refine ⟨cur, hc, ?_⟩
  split at h
  · exact .inl ⟨_, _, .inl (Host.Outcome.next.inj h).symm⟩
  · split at h
    · exact .inl ⟨_, _, .inl (Host.Outcome.next.inj h).symm⟩
    · obtain ⟨tbl, -, h⟩ := need_next.1 h
      split at h
      · exact .inl ⟨_, _, .inr (Host.Outcome.next.inj h).symm⟩
      · rename_i name _
        refine .inr ⟨by omega, nameText name ++ [0x3A], ?_⟩
        split at h
        · exact .inl ⟨by omega, (Host.Outcome.next.inj h).symm⟩
        · exact .inr ⟨by omega, (Host.Outcome.next.inj h).symm⟩

theorem scanFrom_scans {s t : State} {len : Nat} (h : scanFrom s len = .next t) :
    ∃ cur, s.cur = some cur ∧ Scans (s.withCur (cur + len)) t := by
  obtain ⟨cur, hc, h⟩ := scanFrom_next.1 h
  exact ⟨cur, hc, scanLoop_scans h⟩

theorem execWbLcmt_next {text : List Byte} {s t : State} (h : execWbLcmt text s = .next t) :
    ∃ rend x, s.rend = some rend ∧ t = endRecord ((s.emit x).withCur rend) := by
  simp only [execWbLcmt, endAtRend_next] at h
  obtain ⟨rend, hr, h⟩ := h
  split at h
  · exact ⟨rend, List.replicate (8 - col s.txt) SP ++ 0x3B :: text, by simpa [*] using hr, by
      rw [h]; simp only [State.pad, State.emit, List.append_assoc]⟩
  · exact ⟨rend, 0x3B :: text, by simpa [*] using hr, h⟩

theorem execWbLmn_next {m : BitVec 7} {s t : State} (h : execWbLmn m s = .next t) :
    ∃ cur rend x, s.cur = some cur ∧ s.rend = some rend ∧ scanLoop ((s.emit x).withCur (cur + 1)) = .next t := by
  simp only [execWbLmn, need_next] at h
  obtain ⟨cur, hc, rend, hr, h⟩ := h
  split at h <;> simp only [State.pad, emit_emit, withCur_emit] at h
  · exact ⟨cur, rend, _, hc, hr, h⟩
  · exact ⟨cur, rend, _, hc, hr, h⟩

theorem execWbLunl_next {b : Byte} {s t : State} (h : execWbLunl b s = .next t) :
    (∃ u, t = s.refuse u) ∨ ∃ rend x, s.rend = some rend ∧ t = endRecord ((s.emit x).withCur rend) := by
  unfold execWbLunl at h
  split at h
  · obtain ⟨cur, -, h⟩ := need_next.1 h
    exact .inl ⟨_, (Host.Outcome.next.inj h).symm⟩
  · obtain ⟨rend, hr, h⟩ := endAtRend_next.1 h
    exact .inr ⟨rend, _, hr, h⟩

theorem execWbCmt_next {text : List Byte} {s t : State} (h : execWbCmt text s = .next t) :
    ∃ rend x, s.rend = some rend ∧ t = endRecord ((s.emitDropping x).withCur rend) := by
  simp only [execWbCmt, endAtRend_next] at h
  obtain ⟨rend, hr, h⟩ := h
  split at h
  · exact ⟨rend, List.replicate (30 - col s.txt) SP ++ 0x3B :: text, by simpa [*] using hr, by
      rw [h]; simp only [State.pad, State.emit, State.emitDropping, List.append_assoc]⟩
  · exact ⟨rend, [SP] ++ 0x3B :: text, by simpa [*] using hr, by
      rw [h]; simp only [State.emit, State.emitDropping, List.append_assoc]⟩

theorem execWbLref_next {idx : Word16} {s t : State} (h : execWbLref idx s = .next t) :
    (∃ off, t = s.raiseRead off) ∨ ∃ x, scanFrom (s.emitAtom x) 3 = .next t := by
  simp only [execWbLref, need_next] at h
  obtain ⟨tbl, -, h⟩ := h
  split at h
  · exact .inl ⟨_, (Host.Outcome.next.inj h).symm⟩
  · exact .inr ⟨_, h⟩

theorem execWbTunl_next {b : Byte} {s t : State} (h : execWbTunl b s = .next t) :
    (∃ u, t = s.refuse u) ∨ ∃ x, scanFrom (s.emit x) 1 = .next t := by
  unfold execWbTunl at h
  split at h
  · obtain ⟨cur, -, h⟩ := need_next.1 h
    exact .inl ⟨_, (Host.Outcome.next.inj h).symm⟩
  · exact .inr ⟨_, h⟩

end Sys2Proof.Machine
end

