-- ==== Sys2Proof/Laws/Memory.lean ====
section
/-! SUPPORT. The byte spaces: their canonical form, and what their reads answer. -/

namespace Sys2Proof.Machine

theorem cellsFrom_length (k : Nat) (bs : List Byte) : (cellsFrom k bs).length = bs.length := by
  induction bs generalizing k with
  | nil => rfl
  | cons b rest ih => simp [cellsFrom, ih]

theorem cellsFrom_offsets (k : Nat) (bs : List Byte) : (cellsFrom k bs).map (·.1) = List.range' k bs.length := by
  induction bs generalizing k with
  | nil => rfl
  | cons b rest ih => simp [cellsFrom, ih, List.range'_succ]

theorem cellsFrom_bytes (k : Nat) (bs : List Byte) : (cellsFrom k bs).map (·.2) = bs := by
  induction bs generalizing k with
  | nil => rfl
  | cons b rest ih => simp [cellsFrom, ih]

/-- Loading a byte sequence gives the canonical form: every byte space the host loads has it. -/
theorem ofBytes_wf (bs : List Byte) : (Memory.ofBytes bs).wf := by
  simp [Memory.wf, Memory.ofBytes, cellsFrom_offsets, cellsFrom_length, List.range_eq_range']

@[simp] theorem ofBytes_size (bs : List Byte) : (Memory.ofBytes bs).size = bs.length :=
  cellsFrom_length 0 bs

theorem cellsFrom_eq_of_offsets (k : Nat) (m : Memory) (h : m.map (·.1) = List.range' k m.length) :
    m = cellsFrom k (m.map (·.2)) := by
  induction m generalizing k with
  | nil => rfl
  | cons c rest ih =>
    obtain ⟨o, b⟩ := c
    simp only [List.map_cons, List.length_cons, List.range'_succ, List.cons.injEq] at h
    obtain ⟨rfl, h⟩ := h
    simp only [List.map_cons, cellsFrom]
    rw [← ih (o + 1) h]

/-- Every byte space in canonical form is the one that holds its bytes from offset 0 on. -/
theorem eq_ofBytes_of_wf {m : Memory} (h : m.wf) : m = Memory.ofBytes (m.map (·.2)) :=
  cellsFrom_eq_of_offsets 0 m (by rw [h, List.range_eq_range'])

theorem lookup_cellsFrom (k : Nat) (bs : List Byte) (off : Nat) :
    (cellsFrom k bs).lookup off = if off < k then none else bs[off - k]? := by
  induction bs generalizing k with
  | nil => simp [cellsFrom]
  | cons b rest ih =>
    rw [cellsFrom, List.lookup_cons]
    by_cases hk : off = k
    · subst hk; simp
    · have hne : (off == k) = false := by simpa using hk
      rw [hne]
      simp only [ih]
      by_cases hlt : off < k
      · simp [hlt, Nat.lt_succ_of_lt hlt]
      · have h1 : ¬ off < k + 1 := by omega
        have h2 : off - k = (off - (k + 1)) + 1 := by omega
        rw [if_neg h1, if_neg hlt, h2, List.getElem?_cons_succ]

/-- `D[i]` is the i-th byte of the sequence, and there is none outside it (R15, R49). -/
@[simp] theorem read_ofBytes (bs : List Byte) (off : Nat) : (Memory.ofBytes bs).read off = bs[off]? := by
  simp [Memory.read, Memory.ofBytes, lookup_cellsFrom]

/-- A read succeeds exactly inside `[0, |D|)` (R49). -/
theorem read_isSome_iff {m : Memory} (h : m.wf) (off : Nat) : (m.read off).isSome ↔ off < m.size := by
  rw [eq_ofBytes_of_wf h]
  simp

theorem run_ofBytes (bs : List Byte) (off n : Nat) : (Memory.ofBytes bs).run off n = (bs.drop off).take n := by
  induction n generalizing off with
  | zero => simp [Memory.run]
  | succ n ih =>
    rw [Memory.run, read_ofBytes]
    by_cases h : off < bs.length
    · rw [List.getElem?_eq_getElem h, List.drop_eq_getElem_cons h, List.take_succ_cons, ih]
    · have h' : bs.length ≤ off := Nat.le_of_not_lt h
      simp [List.getElem?_eq_none h', List.drop_eq_nil_of_le h']

theorem tail_ofBytes (bs : List Byte) (off : Nat) : (Memory.ofBytes bs).tail off = bs.drop off := by
  rw [Memory.tail, run_ofBytes, ofBytes_size, List.take_of_length_le (by simp)]

/-- A run has no more bytes than asked for. -/
theorem run_length_le (m : Memory) (off n : Nat) : (m.run off n).length ≤ n := by
  induction n generalizing off with
  | zero => simp [Memory.run]
  | succ n ih =>
    rw [Memory.run]
    split
    · simpa using ih (off + 1)
    · simp

/-- A run of one byte is that byte, or nothing. -/
@[simp] theorem run_one (m : Memory) (off : Nat) : m.run off 1 = (m.read off).toList := by
  rw [Memory.run]
  cases m.read off <;> rfl

/-- A run begins with the byte at its offset. -/
theorem run_succ_of_read {m : Memory} {off : Nat} {b : Byte} (n : Nat) (h : m.read off = some b) :
    m.run off (n + 1) = b :: m.run (off + 1) n := by
  rw [Memory.run, h]

theorem run_succ_of_none {m : Memory} {off : Nat} (n : Nat) (h : m.read off = none) : m.run off (n + 1) = [] := by
  rw [Memory.run, h]

end Sys2Proof.Machine
end

