-- ==== Sys2Proof/Tests/Slice0.lean ====
section
/-! SUPPORT. The model's own tests: which terms are ill formed, what the words of the encoding tables spell, what items and
operations do on small inputs (expected values from 95_test_vectors, V1 to V156, unless a comment says otherwise), and a
concrete case for the hypotheses of every statement. -/

namespace Sys2Proof.Tests

set_option Elab.async false

open Sys2Proof Sys2Proof.Machine

/-! ### Well-formedness -/

theorem test_wf_basPrim : (Instr.basPrim 0x7F).wf = false ∧ (Instr.basPrim 0xFF).wf = false := by decide
theorem test_wf_basStr : (Instr.basStr [0x22] true).wf = false ∧ (Instr.basStr [0x00] true).wf = false := by decide
theorem test_wf_basChr : (Instr.basChr 0x1F).wf = false ∧ (Instr.basChr 0x7F).wf = false ∧ (Instr.basChr 0x22).wf = false := by
  decide
theorem test_wf_basDig : (Instr.basDig 10).wf = false := by decide
theorem test_wf_basUnl :
    (Instr.basUnl 0x00).wf = false ∧ (Instr.basUnl 0x0E).wf = false ∧ (Instr.basUnl 0x11).wf = false ∧
      (Instr.basUnl 0x20).wf = false ∧ (Instr.basUnl 0x80).wf = false := by decide
theorem test_wf_wbRec : (Instr.wbRec 0).wf = false := by decide
theorem test_wf_wbLrec : (Instr.wbLrec 0x7F).wf = false := by decide
theorem test_wf_wbSlot : (Instr.wbSlot [1, 2, 3, 4, 5, 6, 7]).wf = false ∧ (Instr.wbSlot [0x41, 0]).wf = false := by decide
theorem test_wf_wbLunl : (Instr.wbLunl 0x01).wf = false ∧ (Instr.wbLunl 0x80).wf = false := by decide
theorem test_wf_wbOp : (Instr.wbOp 0x01).wf = false ∧ (Instr.wbOp 0x1C).wf = false := by decide
theorem test_wf_wbStr : (Instr.wbStr [0x22] false).wf = false := by decide
theorem test_wf_wbLogic : (Instr.wbLogic 0x98).wf = false ∧ (Instr.wbLogic 0xC0).wf = false := by decide
theorem test_wf_wbCond : (Instr.wbCond 0x8F).wf = false ∧ (Instr.wbCond 0x99).wf = false := by decide
theorem test_wf_wbTunl : (Instr.wbTunl 0x1B).wf = false ∧ (Instr.wbTunl 0x22).wf = false ∧ (Instr.wbTunl 0x80).wf = false := by
  decide

/-! ### Decoding: words written out from the encodings of 30_encoding -/

/-- R55: a tag has no bytes. -/
theorem test_decode_operations :
    decode (.operation (.legal (.screen .sc5))) [] = .ok (.sc5, []) ∧ decode (.operation (.legal (.screen .sc7))) [] = .ok (.sc7, []) ∧
    decode (.operation (.legal (.screen .sc8))) [] = .ok (.sc8, []) ∧ decode (.operation (.legal (.screen .s10))) [] = .ok (.s10, []) ∧
    decode (.operation (.legal (.screen .s12))) [] = .ok (.s12, []) ∧ decode (.operation (.legal .bas)) [] = .ok (.bas, []) ∧
    decode (.operation (.legal .wb2)) [] = .ok (.wb2, []) ∧ decode (.operation (.legal .stp)) [] = .ok (.stp, []) ∧
    decode (.operation (.other 9)) [] = .ok (.unknown 9, []) := by
  refine ⟨rfl, rfl, rfl, rfl, rfl, rfl, rfl, rfl, rfl⟩

/-- R56 to R61. -/
theorem test_decode_pixels :
    decode .screenHeader [0xFE, 0x34, 0x12, 0x78, 0x56, 0xAA, 0xBB] = .ok (.scrhdr 0x1234 0x5678, []) ∧
    decode .paletteWord [0x23, 0x01] = .ok (.palword 2 1 3, []) ∧
    decode .nibbles [0xA3] = .ok (.nib 10 3, []) ∧
    decode .packedRgb [0b01110001] = .ok (.rgb8 3 4 1, []) ∧
    decode .group [0x18, 0x80, 0x81, 0xF8] = .ok (.yjkgrp 0x18 0x80 0x81 0xF8, []) ∧
    decode (.groupPixel true) [0b10111000] = .ok (.yae 0b1011, []) ∧
    decode (.groupPixel true) [0b10110111] = .ok (.yjk 0b10110, []) ∧
    decode (.groupPixel false) [0b10111000] = .ok (.yjk 0b10111, []) ∧
    decode .stampHeader [0x05, 0x01, 0x02, 0x00] = .ok (.stphdr 0x0105 2, []) ∧
    decode .stampPair [0b00] = .ok (.stp0, []) ∧ decode .stampPair [0b01] = .ok (.stp1, []) ∧
    decode .stampPair [0b10] = .ok (.stphi 0, []) ∧ decode .stampPair [0b11] = .ok (.stphi 1, []) := by
  refine ⟨rfl, rfl, rfl, rfl, rfl, rfl, rfl, rfl, rfl, rfl, rfl, rfl, rfl⟩

/-- R62 to R64. -/
theorem test_decode_basic :
    decode .basSignature [0xFF] = .ok (.basFile, []) ∧
    decode .basToken [0x00, 0x41] = .ok (.basEol, [0x41]) ∧
    decode .basToken [0x0E, 0x34, 0x12] = .ok (.basInt2 false 0x1234, []) ∧
    decode .basToken [0x1C, 0x34, 0x12] = .ok (.basInt2 true 0x1234, []) ∧
    decode .basToken [0x0F, 0xFF] = .ok (.basInt1 255, []) ∧
    decode .basToken [0x1D, 1, 2, 3, 4] = .ok (.basFlt4 1 2 3 4, []) ∧
    decode .basToken [0x3A, 0x8F] = .ok (.basColrem, []) ∧
    decode .basToken [0x3A, 0xA1] = .ok (.basColelse, [0xA1]) ∧
    decode .basToken [0xFF, 0xFF] = .ok (.basExt 0xFF, []) ∧
    decode .basToken [0xFE] = .ok (.basPrim 0xFE, []) ∧ decode .basToken [0x80] = .ok (.basPrim 0x80, []) ∧
    decode .basToken [0x22, 0x41, 0x22, 0x42] = .ok (.basStr [0x41] true, [0x42]) ∧
    decode .basToken [0x22, 0x41, 0x00] = .ok (.basStr [0x41] false, [0x00]) ∧
    decode .basToken [0x7E] = .ok (.basChr 0x7E, []) ∧ decode .basToken [0x20] = .ok (.basChr 0x20, []) ∧
    decode .basToken [0x11] = .ok (.basDig 0, []) ∧ decode .basToken [0x1B] = .ok (.basUnl 0x1B, []) ∧
    decode .bcd [0x41, 0x15, 0, 0] = .ok (.basBcd 0x41 0x15 0 0, []) := by
  refine ⟨rfl, rfl, rfl, rfl, rfl, rfl, rfl, rfl, rfl, rfl, rfl, rfl, rfl, rfl, rfl, rfl, rfl, rfl⟩

/-- R65 to R69. -/
theorem test_decode_assembler :
    decode .wbSignature [0xFD] = .ok (.wbFile, []) ∧ decode .prepassLength [0x85] = .ok (.wbPrepass 0x85, []) ∧
    decode .recordLength [0xFF] = .ok (.wbEnd, []) ∧ decode .recordLength [0x00] = .ok (.wbBlank, []) ∧
    decode .recordLength [0x7F] = .ok (.wbRec 127, []) ∧ decode .recordLength [0xFE] = .ok (.wbLrec 126, []) ∧
    decode .labelSlot [0xC1, 0x42, 0, 0, 0, 0] = .ok (.wbSlot [0x41, 0x42], []) ∧
    decode .lead [0x01, 0x68] = .ok (.wbLcmt [0x68], []) ∧ decode .lead [0xFF] = .ok (.wbLmn 127, []) ∧
    decode .lead [0x02] = .ok (.wbLunl 2, []) ∧ decode .operand [0x01, 0x78] = .ok (.wbCmt [0x78], []) ∧
    decode .operand [0x1B] = .ok (.wbOp 0x1B, []) ∧
    decode .operand [0x22, 0x41, 0x22] = .ok (.wbStr [0x41] true, []) ∧
    decode .operand [0xC0, 0x34, 0x12] = .ok (.wbLref 0x1234, []) ∧
    decode .operand [0xE0, 0x34, 0x12] = .ok (.wbNumd 0x1234, []) ∧
    decode .operand [0xE1, 0x34, 0x12] = .ok (.wbNumh 0x1234, []) ∧
    decode .operand [0xE2, 0x34, 0x12] = .ok (.wbNumb 0x1234, []) ∧
    decode .operand [0x99] = .ok (.wbLogic 0x99, []) ∧ decode .operand [0xFF] = .ok (.wbLogic 0xFF, []) ∧
    decode .operand [0x90] = .ok (.wbCond 0x90, []) ∧ decode .operand [0x98] = .ok (.wbCond 0x98, []) ∧
    decode .operand [0x8F] = .ok (.wbReg 15, []) ∧ decode .operand [0x41] = .ok (.wbTunl 0x41, []) := by
  refine ⟨rfl, rfl, rfl, rfl, rfl, rfl, rfl, rfl, rfl, rfl, rfl, rfl, rfl, rfl, rfl, rfl, rfl, rfl, rfl, rfl, rfl, rfl, rfl⟩

/-- Words of the opcode table, in the places log 11 names, and the first step on one of them. -/
theorem test_table_words :
    decodeTableWord 8 0xFD = some .wbFile ∧ decodeTableWord 8 0x3A = some (.basChr 0x3A) ∧
    decodeTableWord 16 0x8F3A = some .basColrem ∧ decodeTableWord 16 0x0527 = some (.palword 2 5 7) ∧
    decodeTableWord 32 0x03020100 = some (.yjkgrp 0 1 2 3) := by
  refine ⟨rfl, rfl, rfl, rfl, rfl⟩

theorem test_fetch_word : (match step (State.reset.withFetchWord 8 0x41) with | .next t => t.txt | _ => []) = [0x41] := by
  decide +kernel

/-! ### One step on a small state -/

/-- The plain configuration. -/
def plain : Cfg := { container := [], double := false, verbose := false, ext := none }

/-- The dictionaries FIX of 95_test_vectors. -/
def fix : Params :=
  { refParams with
    wbMnem := [asc "LD", asc "JP", asc "CALL", asc "RET"]
    wbReg := [asc "A", asc "B", asc "C", asc "D", asc "E", asc "H", asc "L", asc "HL"]
    wbCond := [asc "NZ", asc "Z", asc "NC", asc "C"]
    wbLogic := [asc "AND", asc "OR", asc "XOR"]
    wbOp := [asc ",", asc "+", asc "-", asc "(", asc ")"] }

/-- The machine after reset, with the dictionaries FIX. -/
def base : State := { State.reset with p := fix }

/-- The slot SLOT0 of 95_test_vectors. -/
def slot0 : List Byte := [0x53, 0x54, 0x41, 0x52, 0xD4, 0, 0, 0]

/-- The state after an outcome, and something of it. -/
def see {α : Type} (o : Out) (f : State → Option α) : Option α :=
  match o with
  | .next t => f t
  | .fault _ => none
  | .refused _ => none

/-- `RES` after one invocation. -/
def run (o : Operation) (bytes : List Byte) (cfg : Cfg := plain) : Option Result :=
  see (step (base.load (.legal o) bytes cfg)) State.res

/-- The size of the image in `RES` after one invocation, and some of its cells. -/
def draw (o : Operation) (bytes : List Byte) (cells : List (Nat × Nat)) (cfg : Cfg := plain) :
    Option (Nat × Nat × List (Option Pixel)) :=
  match run o bytes cfg with
  | some (.image b) => some (b.w, b.h, cells.map fun c => b.read c.1 c.2)
  | _ => none

/-- The text after one item. -/
def textOf (o : Out) : Option Text := see o fun t => some t.txt

/-- The state before a BASIC token or a WBASS2 operand with the given bytes. -/
def atItem (pl : Place) (bytes : List Byte) : State := base.withItem pl bytes

/-- The cells that an item at address `a` of a screen of format `f` has drawn. -/
def drawn (f : Screen) (w h : Nat) (pt : Point) (i : Instr) (cells : List (Nat × Nat)) : Option (List (Option Pixel)) :=
  see (exec i ({ screenScaffold base f w h [] with eff := some 0xFFFF }.goto pt)) fun t =>
    t.buf.map fun b => cells.map fun c => b.read c.1 c.2

-- Operations.
theorem test_sc5_geometry :
    draw (.screen .sc5) [0xFE, 0, 0, 2, 0, 0, 0, 0x12, 0x5C] [(0, 0), (3, 0), (4, 0)] =
      some (256, 192, [some (.idx 1), some (.idx 12), some (.idx 0)]) := by decide +kernel
theorem test_sc7_doubled :
    draw (.screen .sc7) [0xFE, 0, 0, 1, 0, 0, 0, 0xA3] [(1, 1), (2, 0)] { plain with double := true } =
      some (1024, 384, [some (.idx 10), some (.idx 3)]) := by decide +kernel
theorem test_sc8_empty : draw (.screen .sc8) [0xFE, 0x10, 0, 0x10, 0, 0, 0] [(16, 0)] =
    some (256, 192, [some (.rgba ⟨0, 0, 0, 0⟩)]) := by decide +kernel
theorem test_sc8_truncated : run (.screen .sc8) [0xFE, 0, 0, 4, 0, 0, 0, 0x11, 0x22, 0x33] =
    some (.fail .truncatedPayload 4) := by decide +kernel
theorem test_s10_escape :
    draw (.screen .s10) [0xFE, 0, 0, 4, 0, 0, 0, 0x18, 0x80, 0x80, 0xF8] [(0, 0), (1, 0), (3, 0)] =
      some (256, 192, [some (.rgba ⟨0, 0, 0, 255⟩), some (.rgba ⟨132, 132, 165, 255⟩), some (.rgba ⟨255, 255, 255, 255⟩)]) := by
  decide +kernel
theorem test_s12_no_escape :
    draw (.screen .s12) [0xFE, 2, 0, 6, 0, 0, 0, 0x18, 0x80, 0x80, 0xF8] [(1, 0), (2, 0), (5, 0)] =
      some (256, 192, [some (.rgba ⟨0, 0, 0, 0⟩), some (.rgba ⟨25, 25, 25, 255⟩), some (.rgba ⟨255, 255, 255, 255⟩)]) := by
  decide +kernel
theorem test_stp_rows :
    draw .stp [5, 0, 2, 0, 0, 0, 0x40] [(3, 1), (3, 2), (3, 3), (4, 3)] =
      some (5, 4, [some (.idx 1), some (.idx 0), some (.idx 0), some (.idx 1)]) := by decide +kernel
theorem test_stp_refused : run .stp [1, 0, 1, 0, 0x80] = some (.unmodelled .stampValue) := by decide +kernel
theorem test_bas_keywords :
    run .bas [0xFF, 1, 0, 5, 0, 0x80, 0xFD, 0xFE, 0xFF, 0x20, 0xFF, 0xB0, 0, 0, 0] =
      some (.text (asc "5 --1--124--125---97-MKD$" ++ [NL])) := by decide +kernel
theorem test_bas_two_lines :
    run .bas [0xFF, 1, 0, 10, 0, 0x41, 0, 1, 0, 20, 0, 0x42, 0, 0, 0] =
      some (.text (asc "10 A" ++ [NL] ++ asc "20 B" ++ [NL])) := by decide +kernel
theorem test_wb2_columns :
    run .wb2 [0xFD, 8, 0x80, 0x80, 0x02, 0xE0, 1, 0, 0x01, 0x78, 0xFF] =
      some (.text (asc "        LD    A,1             ;x" ++ [NL])) := by decide +kernel
theorem test_wb2_corrupt : run .wb2 [0xFD, 5, 1] = some (.fail .corruptLabelTable 7) := by decide +kernel
theorem test_unknown : see (step (base.load (.other 3) [] plain)) State.res = some (.fail .unknownFormat 3) := by decide +kernel

-- Failures in rule order.
theorem test_short_header : run (.screen .sc5) [0xFE, 0, 0, 0, 0, 0] = some (.fail .malformedHeader 6) := by decide +kernel
theorem test_order : run (.screen .s12) [0xFE, 5, 0, 4, 0, 0, 0] = some (.fail .malformedHeader 5) := by decide +kernel
theorem test_signature : run .bas [0xFE, 0, 0] = some (.fail .invalidSignature 0xFE) := by decide +kernel
theorem test_prepass : run .wb2 [0xFD] = some (.fail .corruptLabelTable 1) := by decide +kernel
theorem test_external_short :
    run (.screen .sc5) [0xFE, 0, 0, 2, 0, 0, 0, 0, 0] { plain with ext := some (Memory.ofBytes (List.replicate 31 0)) } =
      some (.fail .truncatedPayload 31) := by decide +kernel
theorem test_operand_cut_off : run .wb2 [0xFD, 3, 0x80, 0xE1, 0x1A, 0xFF] = some (.fail .truncatedPayload 3) := by decide +kernel

-- Screen items.
theorem test_palword : see (step (atItem .paletteWord [0x27, 0x05])) (fun t => t.pal[0]) = some ⟨73, 182, 255⟩ := by decide +kernel
theorem test_palword_ignored_bits : see (step (atItem .paletteWord [0x88, 0x08])) (fun t => t.pal[0]) = some ⟨0, 0, 0⟩ := by
  decide +kernel
theorem test_nib : drawn .sc5 256 192 (.nibbles 0x81) (.nib 5 12) [(2, 1), (3, 1)] = some [some (.idx 5), some (.idx 12)] := by
  decide +kernel
theorem test_nib_sc7 : drawn .sc7 512 192 (.nibbles 0x181) (.nib 10 3) [(258, 1), (259, 1)] = some [some (.idx 10), some (.idx 3)] := by
  decide +kernel
theorem test_rgb8 : drawn .sc8 256 192 (.packedRgb 0x101) (.rgb8 3 3 1) [(1, 1)] = some [some (.rgba ⟨109, 109, 85, 255⟩)] := by
  decide +kernel
theorem test_yjkgrp : see (step (atItem .group [0x07, 0x07, 0x00, 0x04])) (fun t => some (t.kc, t.jc)) = some (some (-1), some (-32)) := by
  decide +kernel
theorem test_yjk_truncates :
    see (exec (.yjk 0) { (atItem (.groupPixel false) [0]) with kc := some (-3), jc := some (-1) }) (fun t => t.buf.bind fun b => b.read 0 0) =
      some (.rgba ⟨0, 0, 0, 255⟩) := by decide +kernel
theorem test_yjk_clamps :
    see (exec (.yjk 31) { (atItem (.groupPixel false) [0]) with kc := some 0, jc := some 0 }) (fun t => t.buf.bind fun b => b.read 0 0) =
      some (.rgba ⟨255, 255, 255, 255⟩) := by decide +kernel
theorem test_yae : see (step (atItem (.groupPixel true) [0x18])) (fun t => t.buf.bind fun b => b.read 0 0) =
    some (.rgba ⟨0, 0, 0, 255⟩) := by decide +kernel
/-- R28, R85: the preamble writes `POFF`, NONE for a format without palette. -/
theorem test_scrhdr_poff : see (exec (.scrhdr 0 0) { base with op := some (.screen .s12), d := Memory.ofBytes [0xFE, 0, 0, 0, 0, 0, 0] })
    State.poff = some none := by decide +kernel
theorem test_scrhdr_clip :
    see (exec (.scrhdr 0 0x6001) { base with op := some (.screen .sc8), d := Memory.ofBytes [] }) (fun t => some (t.h, t.eff, t.res)) =
      some (some 192, some 0x6001, some (.fail .truncatedPayload 0x6001)) := by decide +kernel
theorem test_scrhdr_rows :
    see (exec (.scrhdr 0 0x769F) { base with op := some (.screen .sc5) }) (fun t => some (t.h, t.cap, t.eff)) =
      some (some 212, some 0x6A00, some 0x6A00) := by decide +kernel

-- Stamp items.
theorem test_stphdr : see (step (atItem .stampHeader [5, 0, 1, 0, 0])) State.res = some (.fail .truncatedPayload 5) := by decide +kernel
theorem test_stp0 : see (step (atItem .stampPair [0])) (fun t => t.buf.bind fun b => b.read 0 0) = some (.idx 1) := by decide +kernel
theorem test_stp1 : see (step (atItem .stampPair [1])) (fun t => t.buf.bind fun b => b.read 0 0) = some (.idx 0) := by decide +kernel
theorem test_stphi : see (step (atItem .stampPair [3])) State.res = some (.unmodelled .stampValue) := by decide +kernel

-- BASIC items.
theorem test_basFile : textOf (step (atItem .basSignature [0xFF, 1, 0, 0xFF, 0xFF, 0x41])) = some (asc "65535 ") := by decide +kernel
theorem test_basEol : textOf (step (atItem .basToken [0, 1, 0, 20, 0, 0x42])) = some (NL :: asc "20 ") := by decide +kernel
theorem test_basInt2 : textOf (step (atItem .basToken [0x1C, 0xFF, 0xFF])) = some (asc "65535") := by decide +kernel
theorem test_basInt1 : textOf (step (atItem .basToken [0x0F, 0xFF])) = some (asc "255") := by decide +kernel
theorem test_basFlt4 : textOf (step (atItem .basToken [0x1D, 0x41, 0xAB, 0xCD, 0xEF])) = some (asc "a.bcdef") := by decide +kernel
theorem test_basColrem : textOf (step (atItem .basToken [0x3A, 0x8F])) = some [] := by decide +kernel
theorem test_basColelse : see (step (atItem .basToken [0x3A, 0xA1])) (fun t => some (t.txt, t.cur)) = some ([], some 1) := by decide +kernel
theorem test_basExt : textOf (step (atItem .basToken [0xFF, 0xB0])) = some (asc "MKD$") := by decide +kernel
theorem test_basPrim : textOf (step (atItem .basToken [0x80])) = some (asc "--1-") := by decide +kernel
theorem test_basStr_open : see (step (atItem .basToken [0x22, 0x41, 0])) (fun t => some (t.txt, t.cur)) = some ([0x22, 0x41], some 2) := by
  decide +kernel
theorem test_basStr_raw : textOf (step (atItem .basToken [0x22, 0xE6, 0x8F, 0x22])) = some [0x22, 0xE6, 0x8F, 0x22] := by decide +kernel
theorem test_basChr : textOf (step (atItem .basToken [0x3A, 0x89])) = some (asc ":") := by decide +kernel
theorem test_basDig : textOf (step (atItem .basToken [0x1A])) = some (asc "9") := by decide +kernel
theorem test_basUnl : run .bas [0xFF, 1, 0, 10, 0, 0x7F, 0] = some (.unmodelled (.basUnlistedByte 0x7F 5)) := by decide +kernel
theorem test_basBcd : textOf (step (atItem .bcd [0x47, 0x12, 0x34, 0x56])) = some (asc "1234560!") := by decide +kernel
theorem test_bcd_forms :
    bcdText fix 0x3D 0x12 0x34 0x56 = asc "1.23456E-04" ∧ bcdText fix 0x3E 0x12 0x34 0x56 = asc "XXX" ∧
    bcdText fix 0xBF 0x12 0x34 0x56 = asc "-.0123456" ∧ bcdText fix 0xC0 0 0 0 = asc "-" ∧
    bcdText fix 0x42 0x10 0 0 = asc "10" ∧ bcdText fix 0x4F 0x12 0x34 0x56 = asc "1.23456E+14" := by decide +kernel

-- WBASS2 items.
theorem test_wbFile : see (step (atItem .wbSignature [0xFD])) (fun t => some t.pt) = some (.prepass 1) := by decide +kernel
theorem test_wbPrepass : see (step (atItem .prepassLength [0x85])) (fun t => some t.pt) = some (.prepass 6) := by decide +kernel
theorem test_wbPrepass_end : see (step (atItem .prepassLength [0xFF])) (fun t => some (t.tbl, t.cur)) = some (some 1, some 1) := by
  decide +kernel
theorem test_wbEnd : run .wb2 [0xFD, 0xFF] = some (.text []) := by decide +kernel
theorem test_wbBlank : run .wb2 [0xFD, 0x00, 0xFF] = some (.text [NL]) := by decide +kernel
/-- D61: a blank record clears both flags. -/
theorem test_wbBlank_flags : see (step { atItem .recordLength [0x00] with pend := true, lbl := true })
    (fun t => some (t.cur, t.txt, t.pend, t.lbl)) = some (some 1, [NL], false, false) := by decide +kernel
theorem test_wbRec : see (step { atItem .recordLength [0x7F] with pend := true, lbl := true }) (fun t => some (t.rend, t.pend, t.lbl)) =
    some (some 128, false, false) := by decide +kernel
theorem test_wbLrec : run .wb2 ([0xFD, 0x82, 0, 0, 0xFF] ++ slot0) = some (.text (asc "START:" ++ [NL])) := by decide +kernel
theorem test_wbLrec_short : run .wb2 [0xFD, 0x81, 0, 0xFF] = some (.fail .truncatedPayload 2) := by decide +kernel
/-- R138: the cursor is past the index when its label leaves `D`. -/
theorem test_wbLrec_label : see (step { atItem .recordLength [0x82, 0x09, 0x00] with d := Memory.ofBytes [0x82, 0x09, 0x00] })
    (fun t => some (t.cur, t.rend)) = some (some 3, some 3) := by decide +kernel
theorem test_wbSlot : textOf (step (atItem .labelSlot [0x53, 0x54, 0x41, 0x52, 0xD4, 0])) = some (asc "START") := by decide +kernel
theorem test_label_masked :
    labelName (Memory.ofBytes [0xC1, 0xC2, 0xC3, 0xC4, 0xC5, 0xC6, 0xC7, 0xC8]) 0 0 = some [0x41, 0x42, 0x43, 0x44, 0x45, 0x46] := by
  decide +kernel
theorem test_wbLcmt : run .wb2 ([0xFD, 0x85, 0, 0, 0x01, 0x68, 0x69, 0xFF] ++ slot0) = some (.text (asc "START:  ;hi" ++ [NL])) := by
  decide +kernel
theorem test_wbLmn : run .wb2 [0xFD, 1, 0x80, 0xFF] = some (.text (asc "        LD" ++ [NL])) := by decide +kernel
theorem test_wbLunl : run .wb2 [0xFD, 2, 0x22, 0x41, 0xFF] = some (.unmodelled (.wbUnlistedLead 0x22 2)) := by decide +kernel
theorem test_wbCmt : run .wb2 [0xFD, 3, 0x83, 0x01, 0x7A, 0xFF] = some (.text (asc "        RET                   ;z" ++ [NL])) := by
  decide +kernel
theorem test_wbOp : run .wb2 [0xFD, 4, 0x80, 0x80, 0x04, 0x81, 0xFF] = some (.text (asc "        LD    A+B" ++ [NL])) := by
  decide +kernel
theorem test_wbStr : textOf (step { atItem .operand [0x22, 0x41, 0x22, 0x80] with pend := true }) = some (asc " \"A\"") := by decide +kernel
theorem test_wbLref : run .wb2 ([0xFD, 4, 0x81, 0xC0, 0, 0, 0xFF] ++ slot0) = some (.text (asc "        JP    START" ++ [NL])) := by
  decide +kernel
theorem test_wbNumd : textOf (step (atItem .operand [0xE0, 0xFF, 0xFF, 0x80])) = some (asc "65535") := by decide +kernel
theorem test_wbNumh : numHex 0 = asc "&H00" ∧ numHex 256 = asc "&H100" ∧ numHex 257 = asc "&H0101" := by decide +kernel
theorem test_wbNumb : numBin 256 = asc "&B100000000" ∧ numBin 257 = asc "&B0000000100000001" := by decide +kernel
theorem test_wbLogic_wbCond : run .wb2 [0xFD, 3, 0x80, 0x94, 0x99, 0xFF] = some (.text (asc "        LD    -4- AND" ++ [NL])) := by
  decide +kernel
theorem test_wbReg : run .wb2 [0xFD, 3, 0x80, 0x80, 0x80, 0xFF] = some (.text (asc "        LD    A A" ++ [NL])) := by decide +kernel
theorem test_wbTunl : run .wb2 [0xFD, 3, 0x80, 0x80, 0x41, 0xFF] = some (.unmodelled (.wbUnlistedToken 0x41 4)) := by decide +kernel

/-! ### A concrete case for the hypotheses of every statement -/

theorem witness_DecodeUndoesEncode :
    (Instr.basPrim 0x80).wf = true ∧ (Instr.basPrim 0xFE).wf = true ∧ (Instr.wbLrec 0x7E).wf = true ∧
      (Instr.basStr [0x01, 0xFF] false).wf = true := by decide

theorem witness_DecodedInstructionsAreWellFormed :
    decode (.groupPixel true) [0x10, 0x05] = .ok (.yjk 2, [0x05]) ∧ decode (.operation (.other 0)) [] = .ok (.unknown 0, []) := by
  refine ⟨rfl, rfl⟩

theorem witness_BasTokensHaveTheirLength :
    tokenFits none (.basStr [0x41] true) = true ∧ tokenFits (some 0x8F) (.basChr 0x3B) = true ∧
      tokenFits (some 0xFF) .basColrem = true ∧ tokenFits (some 0xA1) .basColelse = true ∧
      tokenFits (some 0x8E) (.basChr 0x3A) = true ∧ tokenFits none (.basChr 0x3A) = true ∧
      tokenFits (some 0x00) (.basStr [0x41] false) = true ∧ tokenFits none (.basStr [] false) = true ∧
      tokenFits (some 0x41) (.basUnl 0x0D) = true ∧ (Instr.basUnl 0x01).wf = true ∧ (Instr.basUnl 0x7F).wf = true ∧
      ([] : List Byte).head? ≠ some 0x8F ∧ ([] : List Byte).head? ≠ some 0xA1 ∧
      ∀ c ∈ ([0x01, 0xFF] : List Byte), c ≠ 0x22 ∧ c ≠ 0x00 := by decide +kernel

theorem witness_OperandsHaveTheirLength :
    operandFits false (.wbOp 0x02) = true ∧ operandFits false (.wbStr [0x00] true) = true ∧
      operandFits true (.wbStr [0x41] false) = true ∧ operandFits true (.wbLogic 0xFF) = true ∧
      (Instr.wbTunl 0x1C).wf = true ∧ (Instr.wbLunl 0x7F).wf = true := by
  decide

theorem witness_InvocationStartsInResetState :
    ∃ o, base.enter .bas = base.enter o := ⟨.bas, rfl⟩

/-- An external palette of 32 zero bytes. -/
def blackPalette : Memory := Memory.ofBytes (List.replicate 32 0)

theorem witness_ResetMeetsInvariant : ∀ e, ({ plain with ext := some blackPalette } : Cfg).ext = some e → e.wf := by
  intro e h
  obtain rfl : blackPalette = e := Option.some.inj h
  decide +kernel

/-- A BASIC program of one line, loaded. -/
def loaded : State := base.load (.legal .bas) [0xFF, 1, 0, 10, 0, 0x41, 0, 0, 0] plain

theorem loaded_inv : loaded.Inv where
  input := by decide +kernel
  external := fun _ h => nomatch h
  buffer := fun _ h => nomatch h
  result := fun _ h => nomatch h
  kc := fun _ h => nomatch h
  jc := fun _ h => nomatch h
  unwritten := fun _ => rfl
  place := rfl

/-- The first operand of a record. -/
def scanning : State := atItem .operand [0xC0, 0x00, 0x00, 0x80]

theorem scanning_inv : scanning.Inv where
  input := by decide +kernel
  external := fun _ h => nomatch h
  buffer := fun _ h => nomatch h
  result := fun _ h => nomatch h
  kc := fun _ h => nomatch h
  jc := fun _ h => nomatch h
  unwritten := fun _ => rfl
  place := ⟨rfl, rfl, rfl, rfl⟩

/-- The second pixel of the last group of a picture with the escape. -/
def drawing : State := (atItem .group [0, 0, 0, 0, 0x18, 0x80, 0x80, 0xF8]).goto (.groupPixel 4 1)

theorem drawing_inv : ({ drawing with op := some (.screen .s10) } : State).Inv where
  input := by decide +kernel
  external := fun _ h => nomatch h
  buffer := fun b h => by cases h; decide +kernel
  result := fun _ h => nomatch h
  kc := fun v h => by cases h; decide
  jc := fun v h => by cases h; decide
  unwritten := fun _ => rfl
  place := ⟨⟨.s10, 0, 8, ⟨rfl, rfl, ⟨_, rfl⟩, rfl, ⟨_, rfl⟩, ⟨_, rfl⟩, ⟨_, rfl, rfl⟩, by decide, by decide +kernel⟩,
    rfl, fun _ => by decide +kernel, by decide, by decide⟩, rfl, rfl, rfl⟩

/-- What an outcome is, when it is a next state. -/
theorem next_of_see {o : Out} (h : see o (fun _ => some ()) = some ()) : ∃ t, o = .next t := by
  cases o with
  | next t => exact ⟨t, rfl⟩
  | fault _ => cases h
  | refused _ => cases h

theorem witness_StepKeepsInvariant :
    (loaded.Inv ∧ ∃ t, step loaded = .next t) ∧ (scanning.Inv ∧ ∃ t, step scanning = .next t) :=
  ⟨⟨loaded_inv, next_of_see (by decide +kernel)⟩, ⟨scanning_inv, next_of_see (by decide +kernel)⟩⟩

theorem witness_ItemsNeverStop :
    (scanning.Inv ∧ scanning.pt ≠ .dispatch) ∧
      ({ drawing with op := some (.screen .s10) } : State).Inv ∧ drawing.pt ≠ .dispatch :=
  ⟨⟨scanning_inv, by decide⟩, drawing_inv, by decide⟩

theorem witness_EveryInvocationEnds : loaded.Inv ∧ loaded.pt = .dispatch := ⟨loaded_inv, rfl⟩

theorem witness_StepRunsDecodedItem :
    nextBytes loaded = .ok [] ∧ decode (placeOf loaded) [] = .ok (.bas, []) ∧
      nextBytes scanning = .ok [0xC0, 0x00, 0x00, 0x80] ∧
        decode (placeOf scanning) [0xC0, 0x00, 0x00, 0x80] = .ok (.wbLref 0, [0x80]) := by
  refine ⟨rfl, rfl, rfl, rfl⟩

theorem witness_StepTakesTheFailureOfARejectedItem :
    (nextBytes (atItem .screenHeader [0xFE]) = .ok [0xFE] ∧
      decode (placeOf (atItem .screenHeader [0xFE])) [0xFE] = .error .shortHeader) ∧
    (nextBytes (atItem .basSignature [0xFE]) = .ok [0xFE] ∧
      decode (placeOf (atItem .basSignature [0xFE])) [0xFE] = .error (.badSignature 0xFE)) ∧
    (nextBytes ((atItem .prepassLength []).goto (.prepass 1)) = .ok [] ∧
      decode (placeOf ((atItem .prepassLength []).goto (.prepass 1))) [] = .error .noLengthByte) ∧
    (nextBytes (atItem .operand [0xC0, 0x00]) = .ok [0xC0, 0x00] ∧
      decode (placeOf (atItem .operand [0xC0, 0x00])) [0xC0, 0x00] = .error .truncated ∧
      (atItem .operand [0xC0, 0x00]).cur = some 0) ∧
    (nextBytes { atItem .basToken [] with d := [(0, 0x0F)] } = .ok [0x0F] ∧
      decode .basToken [0x0F] = .error .truncated ∧ (atItem .basToken []).pt ≠ .operand) := by
  refine ⟨⟨rfl, rfl⟩, ⟨rfl, rfl⟩, ⟨rfl, rfl⟩, ⟨rfl, rfl, rfl⟩, ⟨rfl, rfl, by decide⟩⟩

/-- A state at dispatch with the ports of `loaded`, whose other registers a former invocation has used. -/
def used : State := { loaded with cur := some 7, txt := [0x41], pend := true, res := some (.text []), kc := some 5 }

theorem witness_EqualPortsGiveEqualResults :
    (used.pt = .dispatch ∧ loaded.pt = .dispatch ∧ used.SamePorts loaded) ∧
      let s' : State := { used with cfg := { plain with container := asc "png", verbose := true } }
      s'.pt = .dispatch ∧ s'.tag = loaded.tag ∧ s'.d = loaded.d ∧ s'.p = loaded.p ∧ s'.cfg.double = loaded.cfg.double ∧
        s'.cfg.ext = loaded.cfg.ext ∧ s'.cfg ≠ loaded.cfg ∧ ∃ t, step loaded = .next t :=
  ⟨⟨rfl, rfl, rfl, rfl, rfl, rfl⟩, rfl, rfl, rfl, rfl, rfl, rfl, by decide +kernel, next_of_see (by decide +kernel)⟩

theorem witness_RerunGivesTheSameResult : used.pt = .dispatch ∧ ∃ t, step used = .next t :=
  ⟨rfl, next_of_see (by decide +kernel)⟩

theorem witness_PortsAreNeverWritten :
    (∃ t, exec .bas { loaded with cfg := { plain with ext := some blackPalette } } = .next t ∧ t.cfg.ext = some blackPalette) ∧
      ∃ t, exec (.wbOp 0x02) scanning = .next t ∧ t.cfg.ext = none := by
  refine ⟨?_, ⟨_, rfl, rfl⟩⟩
  obtain ⟨t, ht⟩ := next_of_see (o := exec .bas { loaded with cfg := { plain with ext := some blackPalette } }) (by decide +kernel)
  refine ⟨t, ht, ?_⟩
  have h : see (exec .bas { loaded with cfg := { plain with ext := some blackPalette } }) (fun t => t.cfg.ext) = some blackPalette := by
    decide +kernel
  rw [ht] at h
  exact h

/-- A next state with a result, from what `see` shows of it. -/
theorem result_of_see {o : Out} {r : Result} (h : see o State.res = some r) : ∃ t, o = .next t ∧ t.res = some r := by
  cases o with
  | next t => exact ⟨t, rfl, h⟩
  | fault _ => cases h
  | refused _ => cases h

theorem witness_FailureDeliversNothing :
    (∃ t, step (base.load (.legal .bas) [0xFE] plain) = .next t ∧ t.res = some (.fail .invalidSignature 0xFE)) ∧
      ∃ t, step (base.load (.legal .stp) [1, 0, 1, 0, 0x80] plain) = .next t ∧ t.res = some (.unmodelled .stampValue) :=
  ⟨result_of_see (by decide +kernel), result_of_see (by decide +kernel)⟩

/-- A stamp of one pixel, loaded; the image of one pixel in two rows. -/
def stamp : State := base.load (.legal .stp) [1, 0, 1, 0, 0x40] plain
def stampImage : Buf := { kind := .idx, w := 1, h := 2, pal := stampPalette, cells := [] }

/-- A nibble picture whose `END` is past row 192, doubled, with an external palette; what its image shows of its geometry. -/
def tall : State :=
  base.load (.legal (.screen .sc5)) [0xFE, 0x80, 0x60, 0x80, 0x60, 0, 0] { plain with double := true, ext := some blackPalette }

/-- A picture of an empty payload, loaded; its image. -/
def picture : State := base.load (.legal (.screen .sc8)) [0xFE, 0, 0, 0, 0, 0, 0] plain
def pictureImage : Buf := { kind := .rgba, w := 256, h := 192, pal := [], cells := [] }

theorem witness_ResultKindFollowsTag :
    (∃ t, step loaded = .next t ∧ t.res = some (.text (asc "10 A" ++ [NL]))) ∧
    (∃ t, step stamp = .next t ∧ t.res = some (.image stampImage)) ∧
    ∃ t, step (base.load (.other 8) [] plain) = .next t ∧ (base.load (.other 8) [] plain).tag = .other 8 :=
  ⟨result_of_see (by decide +kernel), result_of_see (by decide +kernel), ⟨_, rfl, rfl⟩⟩

theorem witness_ImagesHaveTheirGeometry :
    (picture.pt = .dispatch ∧ picture.tag = .legal (.screen .sc8) ∧
      ∃ t, step picture = .next t ∧ t.res = some (.image pictureImage)) ∧
    (tall.pt = .dispatch ∧ tall.tag = .legal (.screen .sc5) ∧ kindOf .sc5 = .idx ∧ (∀ e, tall.cfg.ext = some e → e.wf) ∧
      0 < rowBytes (variantOf .sc5) (widthOf tall.p .sc5) ∧
      ∃ t, step tall = .next t ∧ t.res = some (.image
        { kind := .idx, w := 512, h := 424, pal := List.replicate 16 ⟨0, 0, 0, 255⟩, cells := [] })) ∧
    (stamp.pt = .dispatch ∧ stamp.tag = .legal .stp ∧ ∃ t, step stamp = .next t ∧ t.res = some (.image stampImage)) := by
  refine ⟨⟨rfl, rfl, result_of_see (by decide +kernel)⟩, ⟨rfl, rfl, rfl, ?_, by decide +kernel, ?_⟩, rfl, rfl, ?_⟩
  · intro e h
    obtain rfl : blackPalette = e := Option.some.inj h
    decide +kernel
  · exact result_of_see (by decide +kernel)
  · exact result_of_see (by decide +kernel)

theorem witness_UnknownTagFails :
    (base.load (.other 8) [0xFF] plain).pt = .dispatch ∧ (base.load (.other 8) [0xFF] plain).tag = .other 8 ∧
      loaded.tag = .legal .bas := ⟨rfl, rfl, rfl⟩

theorem witness_CursorOnlyMovesForward :
    isItem (.wbNumd 0) = true ∧ scanning.cur = some 0 ∧ (∀ r, scanning.rend = some r → 0 ≤ r) ∧
      ∃ t, exec (.wbNumd 0) scanning = .next t ∧ t.cur = some 3 :=
  ⟨rfl, rfl, fun _ _ => by omega, ⟨_, rfl, rfl⟩⟩

theorem witness_FlagsAreWrittenByTheirRules :
    (∃ t, exec (.wbNumd 0) scanning = .next t ∧ t.pt ≠ .dispatch) ∧
      (∃ t, exec (.wbRec 1) ((atItem .recordLength [0x01])) = .next t ∧ t.pt ≠ .dispatch) ∧
      ∃ t, exec .wbBlank { atItem .recordLength [0x00] with pend := true } = .next t ∧ t.pt ≠ .dispatch :=
  ⟨⟨_, rfl, by decide⟩, ⟨_, rfl, by decide⟩, ⟨_, rfl, by decide⟩⟩

theorem witness_RegistersHaveOneWriter : isItem (.wbNumd 0) = true ∧ ∃ t, exec (.wbNumd 0) scanning = .next t := ⟨rfl, _, rfl⟩

theorem witness_TextOnlyGrows :
    (isItem (.wbNumd 0) = true ∧ ∃ t, exec (.wbNumd 0) scanning = .next t) ∧
      Instr.place (.yjk 0) = .groupPixel false ∧ ∃ t, exec (.yjk 0) drawing = .next t :=
  ⟨⟨rfl, _, rfl⟩, rfl, next_of_see (by decide +kernel)⟩

/-- A buffer of two cells in one row, the second one set. -/
def pair : Buf := { kind := .idx, w := 2, h := 1, pal := stampPalette, cells := [(1, .idx 5)] }
def colours : Buf := { kind := .rgba, w := 2, h := 1, pal := [], cells := [(0, .rgba ⟨255, 0, 0, 255⟩)] }

theorem witness_DoublingReplicatesCells :
    pair.wf = true ∧ pair.kind = .idx ∧ 3 < 2 * pair.w ∧ 1 < 2 * pair.h ∧ colours.wf = true ∧ colours.kind = .rgba := by decide

theorem witness_RowDupRepeatsRows : pair.wf = true ∧ pair.kind = .idx ∧ 1 < pair.w ∧ 1 < 2 * pair.h := by decide

theorem test_doubling :
    (doubleIdx pair).read 3 1 = some (.idx 5) ∧ (doubleIdx pair).read 1 1 = some (.idx 0) ∧
      (doubleRgba colours).read 1 0 = some (.rgba ⟨255, 0, 0, 255⟩) ∧ (rowDup pair).read 1 1 = some (.idx 5) := by decide +kernel

theorem witness_DecimalSpelling : (dec 0).head? = some 0x30 ∧ (0 : Int) ≤ 0 ∧ (-1 : Int) < 0 := by decide +kernel

theorem witness_PadReachesColumn :
    col ({ base with txt := [NL, SP] }).txt < 2 ∧ 1 ≤ col ({ base with txt := [NL, SP] }).txt := by decide

theorem witness_DictOrPlaceholder :
    [asc "A", asc "B"][1]? = some (asc "B") ∧ (-1 : Int) < 0 ∧ ([asc "A", asc "B"].length : Int) ≤ 2 := by decide +kernel

theorem witness_BcdZeroAndMarker : (0x80 : Byte) &&& 0x7F = 0 ∧ (0xBE : Byte) &&& 0x7F = 0x3E := by decide

theorem witness_BcdSmallExponents :
    1 ≤ ((0x01 : Byte) &&& 0x7F).toNat ∧ ((0xBD : Byte) &&& 0x7F).toNat = 61 ∧ ((0xBF : Byte) &&& 0x7F).toNat = 63 ∧
      ((0x40 : Byte) &&& 0x7F).toNat = 64 ∧ ((0xC6 : Byte) &&& 0x7F).toNat = 70 ∧ ((0x47 : Byte) &&& 0x7F).toNat = 71 ∧
      ((0xCE : Byte) &&& 0x7F).toNat = 78 ∧ ((0x4F : Byte) &&& 0x7F).toNat = 79 ∧ 79 ≤ ((0xFF : Byte) &&& 0x7F).toNat ∧
      fix.posExpAdj = .minusOne ∧ ({ fix with posExpAdj := .zero } : Params).posExpAdj = .zero := by decide +kernel

/-- The last palette word, the buffer being there. -/
def lastWord : State := { screenScaffold base .sc8 256 192 [] with eff := some 0, pt := .paletteWord .external 15 }

theorem witness_PalwordWritesOneColour :
    (atItem .paletteWord []).pt = .paletteWord (.embedded 0) 0 ∧ (0 : Fin 16).val + 1 < 16 ∧
      lastWord.pt = .paletteWord .external 15 ∧ (15 : Fin 16).val = 15 ∧ lastWord.op = some (.screen .sc8) ∧
        lastWord.begA = some 0 ∧ lastWord.eff = some 0 ∧ lastWord.buf = some (Buf.new .rgba 256 192 []) :=
  ⟨rfl, by decide, rfl, rfl, rfl, rfl, rfl, rfl⟩

theorem witness_NibDrawsTwoPixels :
    let s := atItem .nibbles [0x12]
    s.pt = .nibbles 0 ∧ s.rb = some 128 ∧ s.buf = some (Buf.new .idx 256 192 []) ∧ s.eff = some 8 ∧ 0 < 128 ∧ 0 + 1 < 8 ∧
      (s.goto (.nibbles 7)).pt = .nibbles 7 ∧ 8 ≤ 7 + 1 ∧ s.op = some (.screen .sc5) ∧
        (kindOf .sc5 = .idx → s.pal.toList = s.p.defpal.toList.map some) :=
  ⟨rfl, rfl, rfl, rfl, by decide, by decide, rfl, by decide, rfl, fun _ => by decide +kernel⟩

theorem witness_Rgb8DrawsOnePixel :
    let s := atItem .packedRgb [0x49]
    s.pt = .packedRgb 0 ∧ s.w = some 256 ∧ s.buf = some (Buf.new .rgba 256 192 []) ∧ s.eff = some 8 ∧ 0 < 256 ∧ 0 + 1 < 8 ∧
      (s.goto (.packedRgb 7)).pt = .packedRgb 7 ∧ 8 ≤ 7 + 1 ∧ s.op = some (.screen .sc8) ∧ kindOf .sc8 ≠ .idx :=
  ⟨rfl, rfl, rfl, rfl, by decide, by decide, rfl, by decide, rfl, by decide⟩

theorem witness_YjkgrpReadsChroma : (atItem .group [0x18, 0x80, 0x80, 0xF8]).pt = .group 0 := rfl

theorem witness_GroupPixelDrawsOneCell :
    let s := drawing.goto (.groupPixel 4 3)
    s.pt = .groupPixel 4 3 ∧ s.w = some 256 ∧ s.buf = some (Buf.new .rgba 256 192 []) ∧ s.pal[15] = some ⟨255, 255, 255⟩ ∧
      s.jc = some 0 ∧ s.kc = some 0 ∧ s.eff = some 8 ∧ 8 < 4 + 8 ∧ s.op = some (.screen .s12) ∧
        (drawing.goto (.groupPixel 0 3)).pt = .groupPixel 0 3 ∧ 0 + 8 ≤ 8 ∧ (2 : Fin 4).val + 1 < 4 :=
  ⟨rfl, rfl, rfl, by decide +kernel, rfl, rfl, rfl, by decide, rfl, rfl, by decide, by decide⟩

theorem witness_StphdrStartsTheStamp :
    (atItem .stampHeader [1, 0, 1, 0]).d.size < 4 + (1 * 1 + 3) / 4 ∧
      4 + (1 * 1 + 3) / 4 ≤ (atItem .stampHeader [1, 0, 1, 0, 0]).d.size ∧ 0 < 1 * 1 ∧
        4 + (0 * 5 + 3) / 4 ≤ (atItem .stampHeader [0, 0, 5, 0]).d.size ∧ 0 * 5 = 0 := by decide

theorem witness_StampPairDrawsOneCell :
    let s := atItem .stampPair [0]
    s.pt = .stampPair 0 ∧ s.sw = some 4 ∧ s.buf = some (Buf.new .idx 4 1 stampPalette) ∧ s.n = some 4 ∧ 0 + 1 < 4 ∧
      (s.goto (.stampPair 3)).pt = .stampPair 3 ∧ 4 ≤ 3 + 1 ∧ s.p.stampHigh = .refuse ∧
        ({ s with p := { s.p with stampHigh := .draw 1 0 } } : State).p.stampHigh = .draw 1 0 :=
  ⟨rfl, rfl, rfl, rfl, by decide, rfl, by decide, rfl, rfl⟩

/-- A header of format `f`, with the bytes that follow it. -/
def header (f : Screen) (beg fin : Word16) (payload : List Byte) : State :=
  { base with
    op := some (.screen f)
    pt := .screenHeader
    d := Memory.ofBytes (0xFE :: (le16Bytes beg ++ le16Bytes fin ++ [0x00, 0x00] ++ payload)) }

theorem witness_ScrhdrRunsThePreamble :
    (header .sc8 5 4 []).op = some (.screen .sc8) ∧ (4 : Word16).toNat < (5 : Word16).toNat ∧
    ((0 : Word16).toNat ≤ (2 : Word16).toNat ∧ (0 : Word16).toNat < pictureEnd .sc8 (header .sc8 0 2 [0x11]) 2 ∧
      (header .sc8 0 2 [0x11]).d.size < 7 + (pictureEnd .sc8 (header .sc8 0 2 [0x11]) 2 - 0)) ∧
    (7 + (pictureEnd .sc8 (header .sc8 0 2 [0x11, 0x22]) 2 - 0) ≤ (header .sc8 0 2 [0x11, 0x22]).d.size ∧
      resolvesPalette .sc8 = false) ∧
    pictureEnd .s12 (header .s12 7 7 []) 7 ≤ (7 : Word16).toNat := by decide +kernel

theorem witness_ScrhdrResolvesThePalette :
    let s := header .sc5 0 0 (List.replicate 32 0)
    let at4 : State := { s with p := { s.p with poffSc5 := some 4 } }
    let at0 : State := { s with p := { s.p with poffSc5 := some 0 } }
    (s.op = some (.screen .sc5) ∧ resolvesPalette .sc5 = true ∧ pictureEnd .sc5 s 0 ≤ (0 : Word16).toNat) ∧
    (paletteOffsetOf at4.p .sc5 = some 4 ∧ (4 : Word16).toNat ≤ (5 : Word16).toNat ∧ (4 : Word16).toNat < (5 : Word16).toNat ∧
      pictureEnd .sc5 at4 5 ≤ (5 : Word16).toNat) ∧
    (paletteOffsetOf at0.p .sc5 = some 0 ∧ 7 + ((0 : Word16).toNat - (0 : Word16).toNat) + 32 ≤ at0.d.size ∧
      (header .sc5 0 0 (List.replicate 31 0)).d.size < 7 + ((0 : Word16).toNat - (0 : Word16).toNat) + 32) ∧
    (paletteOffsetOf s.p .sc5 = some 0x7680 ∧ (0 : Word16).toNat < (0x7680 : Word16).toNat ∧ s.cfg.ext = none ∧
      32 ≤ blackPalette.size ∧ (Memory.ofBytes (List.replicate 31 0)).size < 32) := by decide +kernel

theorem witness_BasLinesBegin :
    let s := atItem .basToken [0x00, 0x01, 0x00, 0x0A, 0x00]
    s.cur = some 0 ∧ 0 + 1 + 2 ≤ s.d.size ∧ s.d.read16 1 = some 1 ∧ s.d.read16 3 = some 10 ∧
      (atItem .basToken [0x00]).d.read16 1 = some 0 ∧
      ({ s with d := Memory.ofBytes [0x00, 0x01, 0x00, 0x0A] } : State).d.read16 3 = none ∧
      ({ s with d := Memory.ofBytes [0x00, 0x01] } : State).d.size < 1 + 2 := by decide +kernel

theorem witness_BasLiteralsPrint : (atItem .basToken [0x0F, 0x01]).cur = some 0 := rfl
theorem witness_BasKeywordsPrint : (atItem .basToken [0xFF, 0x81]).cur = some 0 := rfl
theorem witness_BasCharactersPrint : (atItem .basToken [0x22]).cur = some 0 := rfl

/-- A token of a running BASIC program, in which `REND` is unset, and an operand of a record. -/
theorem witness_UnlistedBytesAreRefused :
    let s : State := { loaded.enter .bas with pt := .basToken, cur := some 5, txt := asc "10 " }
    let emits : Params := { fix with basUnlisted := .emit [0x3F], wbUnlisted := .emit [] }
    (s.cur = some 5 ∧ s.rend = none ∧ s.p.basUnlisted = .refuse ∧ s.p.wbUnlisted = .refuse ∧
      ({ s with p := emits } : State).p.basUnlisted = .emit [0x3F]) ∧
    (scanning.cur = some 0 ∧ scanning.rend = some 4 ∧ ({ scanning with p := emits } : State).p.wbUnlisted = .emit []) :=
  ⟨⟨rfl, rfl, rfl, rfl, rfl⟩, rfl, rfl, rfl⟩

theorem witness_WbPassesOverRecords :
    (atItem .prepassLength [0x00]).pt = .prepass 0 ∧ (0xFE : Byte) ≠ 0xFF ∧ (atItem .recordLength [0x00]).cur = some 0 :=
  ⟨rfl, by decide, rfl⟩

theorem witness_WbRecordsOpen :
    let s := atItem .recordLength [0x83, 0x00, 0x00, 0x80]
    s.cur = some 0 ∧ (1 : BitVec 7).toNat < 2 ∧ 2 ≤ (2 : BitVec 7).toNat ∧ 2 < (3 : BitVec 7).toNat ∧
      s.d.read16 (0 + 1) = some 0 ∧ s.tbl = some 4 ∧ labelName s.d 4 (0 : Word16).toNat = some [] ∧
      ({ s with d := Memory.ofBytes [0x83, 0x00] } : State).d.read16 (0 + 1) = none ∧ labelName s.d 4 (1 : Word16).toNat = none := by
  decide +kernel

theorem witness_WbLeadsPrint :
    let s := atItem .lead [0x80, 0x80]
    s.cur = some 0 ∧ s.rend = some 2 ∧ s.p.wbUnlisted = .refuse ∧
      ({ s.p with wbUnlisted := .emit [0x3F] } : Params).wbUnlisted = .emit [0x3F] := ⟨rfl, rfl, rfl, rfl⟩

theorem witness_WbCommentsAndOperatorsPrint : scanning.cur = some 0 ∧ scanning.rend = some 4 := ⟨rfl, rfl⟩
theorem witness_WbAtomsPrint : scanning.cur = some 0 ∧ scanning.rend = some 4 := ⟨rfl, rfl⟩

theorem witness_WbLabelsPrint :
    scanning.cur = some 0 ∧ scanning.rend = some 4 ∧ scanning.tbl = some 4 ∧
      labelName scanning.d 4 (0 : Word16).toNat = some [] ∧ labelName scanning.d 4 (1 : Word16).toNat = none := by decide +kernel

/-- The empty picture of a format is an input its preamble accepts. -/
theorem empty_input (f : Screen) : ScreenInput f (header f 0 0 []) 0 0 where
  input := by cases f <;> decide +kernel
  header := by cases f <;> decide +kernel
  begAt := by cases f <;> decide +kernel
  endAt := by cases f <;> decide +kernel
  order := by decide
  row := by cases f <;> decide +kernel
  payload := .inl (by cases f <;> decide +kernel)

/-- A picture of one group, and no palette in the file. -/
theorem group_input (f : Screen) : ScreenInput f (header f 0 4 [0x12, 0x34, 0x56, 0x78]) 0 4 where
  input := by cases f <;> decide +kernel
  header := by cases f <;> decide +kernel
  begAt := by cases f <;> decide +kernel
  endAt := by cases f <;> decide +kernel
  order := by decide
  row := by cases f <;> decide +kernel
  payload := .inr (by cases f <;> decide +kernel)

/-- Where `POFF` is past `END`, or NONE, and there is no external palette, the default is taken. -/
theorem default_palette {f : Screen} {s : State} {beg fin : Word16} (hx : s.cfg.ext = none)
    (h : ∀ po, paletteOffsetOf s.p f = some po → fin.toNat < po.toNat) : ResolvedPalette f s beg fin s.p.defpal := by
  refine ⟨fun po hp hle => ?_, fun _ => ⟨fun e he => ?_, fun _ => rfl⟩⟩
  · have := h po hp
    omega
  · rw [hx] at he
    cases he

/-- Where `POFF` is past `END`, or NONE, the external palette is taken. -/
theorem external_palette {f : Screen} {s : State} {beg fin : Word16} (hx : s.cfg.ext = some blackPalette)
    (h : ∀ po, paletteOffsetOf s.p f = some po → fin.toNat < po.toNat)
    (hz : I3 s.p 0 = 0) : ResolvedPalette f s beg fin (Vector.replicate 16 ⟨0, 0, 0⟩) := by
  refine ⟨fun po hp hle => ?_, fun _ => ⟨fun e he => ?_, fun he => ?_⟩⟩
  · have := h po hp
    omega
  · rw [hx] at he
    obtain rfl : blackPalette = e := Option.some.inj he
    refine ⟨by decide +kernel, fun i => ⟨0, by revert i; decide +kernel, ?_⟩⟩
    have h0 : palWord s.p ((0 : Word16).extractLsb' 4 3) ((0 : Word16).extractLsb' 8 3) ((0 : Word16).extractLsb' 0 3) =
        ⟨I3 s.p 0, I3 s.p 0, I3 s.p 0⟩ := rfl
    rw [h0, hz]
    simp
  · rw [hx] at he
    cases he

theorem witness_NibblePicturesAreDrawn :
    (ScreenInput .sc5 (header .sc5 0 4 [0x12, 0x34, 0x56, 0x78]) 0 4 ∧
      ResolvedPalette .sc5 (header .sc5 0 4 [0x12, 0x34, 0x56, 0x78]) 0 4 fix.defpal) ∧
    (ScreenInput .sc7 (header .sc7 0 0 []) 0 0 ∧ ResolvedPalette .sc7 (header .sc7 0 0 []) 0 0 fix.defpal) :=
  ⟨⟨group_input .sc5, default_palette rfl fun po h => by cases h; decide⟩, empty_input .sc7,
    default_palette rfl fun po h => by cases h; decide⟩

/-- The other branches of the resolver: the embedded and the external palette, of 32 zero bytes, and `POFF` = NONE, which
goes on to the external one or to the default. -/
theorem witness_ResolvedPalette :
    ResolvedPalette .sc5 { header .sc5 0 0 (List.replicate 32 0) with p := { fix with poffSc5 := some 0 } } 0 0
        (Vector.replicate 16 ⟨0, 0, 0⟩) ∧
      ResolvedPalette .sc5 { header .sc5 0 0 [] with cfg := { plain with ext := some blackPalette } } 0 0
        (Vector.replicate 16 ⟨0, 0, 0⟩) ∧
      ResolvedPalette .s10
        { header .s10 0 0 [] with p := { fix with poffS10 := none }, cfg := { plain with ext := some blackPalette } } 0 0
        (Vector.replicate 16 ⟨0, 0, 0⟩) ∧
      ResolvedPalette .sc7 { header .sc7 0 0 [] with p := { fix with poffSc7 := none } } 0 0 fix.defpal := by
  refine ⟨⟨fun po hp hle => ?_, fun h => ?_⟩, external_palette rfl (fun po h => by cases h; decide) rfl,
    external_palette rfl (fun po h => by cases h) rfl, default_palette rfl fun po h => by cases h⟩
  · cases hp
    exact ⟨by decide, fun i => ⟨0, by revert i; decide +kernel, by revert i; decide +kernel⟩⟩
  · have := h 0 rfl
    simp at this

theorem witness_PackedPicturesAreDrawn :
    ScreenInput .sc8 (header .sc8 0 4 [0x12, 0x34, 0x56, 0x78]) 0 4 ∧ ScreenInput .sc8 (header .sc8 0 0 []) 0 0 :=
  ⟨group_input .sc8, empty_input .sc8⟩

theorem witness_LumaPicturesAreDrawn :
    (ScreenInput .s10 (header .s10 0 4 [0x12, 0x34, 0x56, 0x78]) 0 4 ∧
      ResolvedPalette .s10 (header .s10 0 4 [0x12, 0x34, 0x56, 0x78]) 0 4 fix.defpal) ∧
    ScreenInput .s12 (header .s12 0 4 [0x12, 0x34, 0x56, 0x78]) 0 4 :=
  ⟨⟨group_input .s10, default_palette rfl fun po h => by cases h; decide⟩, group_input .s12⟩

theorem witness_StampsAreDrawn :
    let s : State := { base with d := Memory.ofBytes [5, 0, 1, 0, 0x11, 0x40] }
    s.d.wf ∧ s.d.read16 0 = some 5 ∧ s.d.read16 2 = some 1 ∧ 4 + (5 * 1 + 3) / 4 ≤ s.d.size ∧ ∀ i, i < 5 * 1 → stampValue s i < 2 := by
  decide +kernel

/-- A line of a program: a keyword, a closed string, a literal, a colon as a character, one that ELSE hides, an unlisted byte
and a string without closing quote. -/
def line10 : BasLine :=
  ⟨1, 10, [.basPrim 0x91, .basStr [0x41] true, .basInt1 7, .basChr 0x3A, .basColelse, .basPrim 0xA1, .basUnl 0x01,
    .basStr [0x42] false]⟩

/-- `line10`'s parameters: unlisted bytes print "?". -/
def fixEmits : Params := { fix with basUnlisted := .emit [0x3F] }

theorem line10_fits (next : List Byte) (h : next = [0x00] ∨ next = []) : line10.Fits fixEmits next where
  link := by decide
  tokens := by rcases h with rfl | rfl <;> decide +kernel
  unlisted := fun _ _ => ⟨_, rfl⟩

theorem witness_BasicProgramsAreListed :
    (∀ l ∈ [line10], l.Fits fixEmits [0x00]) ∧ (BasEnding.sentinel [0x41]).Fits fixEmits ∧
      (BasEnding.cutOff [0x07]).Fits fixEmits ∧ (BasEnding.openLine line10).Fits fixEmits ∧
      ∃ s : State, s.p = fixEmits ∧
        s.d = Memory.ofBytes (0xFF :: ([line10].flatMap BasLine.bytes ++ (BasEnding.openLine line10).bytes)) :=
  ⟨fun l hl => by rw [List.mem_singleton.1 hl]; exact line10_fits _ (.inl rfl), trivial, by simp [BasEnding.Fits],
    line10_fits _ (.inr rfl), { base with p := fixEmits, d := _ }, rfl, rfl⟩

theorem test_basic_program :
    ∀ e ∈ [BasEnding.sentinel [0x41], .cutOff [0x07], .cutOff [], .openLine line10],
      see (step (({ base with p := fixEmits } : State).load (.legal .bas)
        (0xFF :: ([line10].flatMap BasLine.bytes ++ e.bytes)) plain)) State.res =
          some (.text ([line10].flatMap (BasLine.text fixEmits) ++ e.text fixEmits)) := by
  decide +kernel

/-- The records of a program: a blank line, a label, a comment, and lines with operands and remarks. -/
def records : List WbRecord :=
  [.blank, .labelOnly 0, .comment none [0x41], .comment (some 0) [0x42],
    .line (some 0) 0 [.wbReg 0, .wbOp 2, .wbNumh 0x1A, .wbReg 1, .wbCond 0x90] (some [0x43]),
    .line none 1 [.wbLref 0, .wbStr [0x0A] true, .wbStr [0x41] false] none, .line none 3 [] none, .line none 3 [] (some [0x44])]

theorem witness_AssemblerProgramsAreListed :
    let s : State := { base with d := Memory.ofBytes (0xFD :: (records.flatMap WbRecord.bytes ++ [0xFF] ++ slot0)) }
    (∀ r ∈ records, r.fits = true) ∧
      ∀ r ∈ records, ∀ idx ∈ r.labels, ∃ name,
        labelName s.d (2 + (records.flatMap WbRecord.bytes).length) idx.toNat = some name ∧ asc "START" = nameText name := by
  refine ⟨by decide +kernel, ?_⟩
  have h : ∀ r ∈ records, ∀ idx ∈ r.labels, idx = 0 := by simp [records, WbRecord.labels, refIndex]
  have h0 : labelName (Memory.ofBytes (0xFD :: (records.flatMap WbRecord.bytes ++ [0xFF] ++ slot0)))
      (2 + (records.flatMap WbRecord.bytes).length) 0 = some [0x53, 0x54, 0x41, 0x52, 0x54] := by decide +kernel
  intro r hr idx hi
  rw [h r hr idx hi]
  exact ⟨_, h0, by decide +kernel⟩

theorem test_assembler_program :
    run .wb2 (0xFD :: (records.flatMap WbRecord.bytes ++ [0xFF] ++ slot0)) =
      some (.text (records.flatMap (WbRecord.text fix fun _ => asc "START"))) := by decide +kernel

end Sys2Proof.Tests
end

section
/-! The digits of a number in a base, tied to Mathlib's `Nat.digits`, and their spelling (R14). -/

namespace Sys2Proof.Machine

theorem digitsAux_eq_reverse_digits {b fuel n : Nat} (hb : 2 ≤ b) (hfuel : n < fuel) (hn : n ≠ 0) (acc : List Nat) :
    digitsAux b fuel n acc = (Nat.digits b n).reverse ++ acc := by
  induction fuel generalizing n acc with
  | zero => omega
  | succ fuel ih =>
    rw [digitsAux]
    split
    next hlt => simp [Nat.digits_of_lt b n hn hlt]
    next hge =>
      have hquot : n / b ≠ 0 := Nat.div_ne_zero_iff.2 ⟨by omega, by omega⟩
      have hless : n / b < n := Nat.div_lt_self (by omega) hb
      rw [ih (by omega) hquot, Nat.digits_def' hb (Nat.pos_of_ne_zero hn)]
      simp

/-- The model's digits are Mathlib's, the most significant first. -/
theorem digits_eq_reverse {b n : Nat} (hb : 2 ≤ b) (hn : n ≠ 0) : digits b n = (Nat.digits b n).reverse := by
  simpa [digits] using digitsAux_eq_reverse_digits hb n.lt_succ_self hn []

theorem digits_zero {b : Nat} (hb : 2 ≤ b) : digits b 0 = [0] := if_pos (by omega)

theorem lt_of_mem_digits {b n d : Nat} (hb : 2 ≤ b) (hd : d ∈ digits b n) : d < b := by
  by_cases hn : n = 0
  · subst hn
    rw [digits_zero hb, List.mem_singleton] at hd
    omega
  · rw [digits_eq_reverse hb hn, List.mem_reverse] at hd
    exact Nat.digits_lt_base hb hd

theorem digits_ne_nil {b n : Nat} (hb : 2 ≤ b) : digits b n ≠ [] := by
  by_cases hn : n = 0
  · simp [hn, digits_zero hb]
  · rw [digits_eq_reverse hb hn, List.reverse_ne_nil_iff]
    exact Nat.digits_ne_nil_iff_ne_zero.2 hn

theorem ofDigits_reverse_digits {b n : Nat} (hb : 2 ≤ b) : Nat.ofDigits b (digits b n).reverse = n := by
  by_cases hn : n = 0
  · simp [hn, digits_zero hb]
  · rw [digits_eq_reverse hb hn, List.reverse_reverse, Nat.ofDigits_digits]

/-- No leading zeros: only 0 begins with the digit 0. -/
theorem eq_zero_of_digits_head {b n : Nat} (hb : 2 ≤ b) (h : (digits b n).head? = some 0) : n = 0 := by
  by_contra hn
  rw [digits_eq_reverse hb hn, List.head?_reverse, List.getLast?_eq_some_getLast (Nat.digits_ne_nil_iff_ne_zero.2 hn),
    Option.some_inj] at h
  exact Nat.getLast_digit_ne_zero b hn h

theorem digitValue_digitCode (c : HexCase) {d : Nat} (hd : d < 16) : digitValue (digitCode c d) = d := by
  have hall : ∀ d : Fin 16, digitValue (digitCode c d) = d := by cases c <;> decide
  exact hall ⟨d, hd⟩

theorem digitCode_toNat (c : HexCase) {d : Nat} (hd : d < 10) : (digitCode c d).toNat = 0x30 + d := by
  simp only [digitCode, if_pos hd, BitVec.toNat_ofNat]
  omega

theorem readNumber_digitCodes (b : Nat) (c : HexCase) {l : List Nat} (hl : ∀ d ∈ l, d < 16) :
    readNumber b (l.map (digitCode c)) = Nat.ofDigits b l.reverse := by
  have hvalue : ∀ n, ∀ d ∈ l, b * n + digitValue (digitCode c d) = d + b * n := fun n d hd => by
    rw [digitValue_digitCode c (hl d hd), Nat.add_comm]
  rw [readNumber, List.foldl_map, Nat.ofDigits_eq_foldr, List.foldr_reverse]
  exact List.foldl_ext _ _ _ hvalue

/-- The spelling of a number in a base up to 16 reads back as the number, in either case. -/
theorem readNumber_digits {b : Nat} (hb : 2 ≤ b) (hb16 : b ≤ 16) (c : HexCase) (n : Nat) :
    readNumber b ((digits b n).map (digitCode c)) = n := by
  rw [readNumber_digitCodes b c fun d hd => (lt_of_mem_digits hb hd).trans_le hb16, ofDigits_reverse_digits hb]

/-! ### `dec` and `decInt` -/

theorem readNumber_dec (n : Nat) : readNumber 10 (dec n) = n :=
  readNumber_digits (by decide) (by decide) .upper n

theorem allDecimal_dec (n : Nat) : allDecimal (dec n) = true := by
  simp only [allDecimal, dec, List.all_map, List.all_eq_true, Function.comp_apply, decide_eq_true_eq]
  intro d hd
  have hlt : d < 10 := lt_of_mem_digits (by decide) hd
  rw [digitCode_toNat .upper hlt]
  omega

theorem dec_ne_nil (n : Nat) : dec n ≠ [] := by
  simpa [dec] using digits_ne_nil (n := n) (b := 10) (by decide)

theorem dec_zero : dec 0 = [0x30] := rfl

/-- Of the codes of the decimal digits, only that of 0 is "0"; so a text of `dec` that begins with it spells 0. -/
theorem eq_zero_of_dec_head {n : Nat} (h : (dec n).head? = some 0x30) : n = 0 := by
  rw [dec, List.head?_map, Option.map_eq_some_iff] at h
  obtain ⟨d, hhead, hcode⟩ := h
  have hlt : d < 10 := lt_of_mem_digits (by decide) (List.mem_of_mem_head? hhead)
  have hd : 0x30 + d = 0x30 := by rw [← digitCode_toNat .upper hlt, hcode]; rfl
  obtain rfl : d = 0 := by omega
  exact eq_zero_of_digits_head (by decide) hhead

theorem decInt_of_nonneg {n : Int} (h : 0 ≤ n) : decInt n = dec n.toNat := by
  rw [decInt, if_neg (by omega), show n.natAbs = n.toNat by omega]

theorem decInt_of_neg {n : Int} (h : n < 0) : decInt n = 0x2D :: dec (-n).toNat := by
  rw [decInt, if_pos h, show n.natAbs = (-n).toNat by omega]

/-- Settles O28: `dec` is Mathlib's digit list reversed and spelled code by code, so Mathlib's facts about digits carry over. -/
theorem decimalSpelling : Obligations.DecimalSpelling := by
  refine ⟨fun n => ⟨readNumber_dec n, allDecimal_dec n, dec_ne_nil n, fun hhead => ?_⟩, fun _ => decInt_of_nonneg,
    fun _ => decInt_of_neg⟩
  obtain rfl := eq_zero_of_dec_head hhead
  exact ⟨rfl, dec_zero⟩

end Sys2Proof.Machine
end

section
/-! What a step does with the bytes at its place. -/

namespace Sys2Proof.Machine

theorem takeItem_of_decode (run : Instr → State → Host.Outcome State Fault Refusal) {s : State} {bs rest : List Byte} {i : Instr}
    (hbytes : nextBytes s = .ok bs) (hdec : decode (placeOf s) bs = .ok (i, rest)) : takeItem run s = run i s := by
  simp only [takeItem, hbytes, hdec]

/-- Settles O12: a step is `takeItem` with the meanings of `exec`. -/
theorem stepRunsDecodedItem : Obligations.StepRunsDecodedItem :=
  fun _ _ _ _ => takeItem_of_decode exec

end Sys2Proof.Machine
end

section
/-! What each item can do to the registers, said once for every item: it writes its own registers and then goes on or ends the
invocation, or it stops before it has written them. The frames of the registers follow from this by cases. -/

namespace Sys2Proof.Machine

/-- How an item ends once its registers are written: at the next place, or with the invocation's result. -/
inductive ItemEnds (s : State) : State → Prop
  | goto (pt : Point) : ItemEnds s (s.goto pt)
  | image (b : Buf) : ItemEnds s (s.deliverImage b)
  | text : ItemEnds s s.deliverText
  | fails (e : Err) (info : Int) : ItemEnds s (s.raise e info)

/-- The places of the walkers in which an item emits text and moves the cursor, and writes no other register but `PEND`. -/
def emitsAt : Place → Bool
  | .basToken | .bcd | .labelSlot | .lead | .operand => true
  | _ => false

/-- The places in which an item draws cells of the buffer. -/
def drawsAt : Place → Bool
  | .nibbles | .packedRgb | .groupPixel _ | .stampPair => true
  | _ => false

/-- The registers that an item writes before it ends, in the order of the items; what stands in no update is left as it is. -/
inductive ItemWrites (s : State) : Instr → State → Prop
  /-- R77, R78. -/
  | palette {r g b : BitVec 3} (v : Vector (Option Rgb) 16) : ItemWrites s (.palword r g b) { s with pal := v }
  /-- R91, R93, R96, R97, R107. -/
  | cells {i : Instr} (hi : drawsAt i.place = true) (b : Buf) : ItemWrites s i (s.withBuf b)
  /-- R95. -/
  | chroma {g0 g1 g2 g3 : Byte} (g : Option (Vector Byte 4)) (kc jc : Option Int) :
      ItemWrites s (.yjkgrp g0 g1 g2 g3) { s with grp := g, kc := kc, jc := jc }
  /-- R86 to R90, and the resolver R78. -/
  | screenHeader {beg fin : Word16} {begA endA : Option Word16} {w rb h cap eff : Option Nat}
      {poff : Option (Option Word16)} {pal : Vector (Option Rgb) 16} {buf : Option Buf} :
      ItemWrites s (.scrhdr beg fin)
        { s with
          begA := begA, endA := endA, w := w, rb := rb, h := h, cap := cap, eff := eff, poff := poff, pal := pal, buf := buf }
  /-- R105, R106. -/
  | stampHeader {sw sh : Word16} {w h n : Option Nat} {buf : Option Buf} :
      ItemWrites s (.stphdr sw sh) { s with sw := w, sh := h, n := n, buf := buf }
  /-- R109, R110. -/
  | basFile (x : Text) (c : Nat) : ItemWrites s .basFile ((s.emit x).withCur c)
  /-- R113 to R122, R139 to R152: `cur` moves on, or to the end of the record. -/
  | emits {i : Instr} (hi : emitsAt i.place = true) (x : Text) (c' : Nat)
      (hc : ∀ c, s.cur = some c → c ≤ c' ∨ s.rend = some c') :
      ItemWrites s i { (s.emit x).withCur c' with pend := pendAfter i s.pend }
  /-- R134. -/
  | wbFile : ItemWrites s .wbFile s
  /-- R135: bytes that the pre-pass skips. -/
  | skips {l : Byte} : ItemWrites s (.wbPrepass l) s
  /-- R135: the end of the pre-pass. -/
  | table {l : Byte} (tbl cur : Nat) : ItemWrites s (.wbPrepass l) { s with tbl := some tbl, cur := some cur }
  /-- R136. -/
  | blank {c : Nat} (hc : s.cur = some c) (x : Text) : ItemWrites s .wbBlank ((s.emit x).clearFlags.withCur (c + 1))
  /-- R138. -/
  | record {l : BitVec 7} {c : Nat} (hc : s.cur = some c) : ItemWrites s (.wbRec l) (openRecord s c l)
  /-- R138, R139. -/
  | labelled {l : BitVec 7} {c : Nat} (hc : s.cur = some c) (x : Text) :
      ItemWrites s (.wbLrec l) ((((openRecord s c l).withCur (c + 1 + 2)).emit x).setLbl)

/-- What an item has done when it answers the next state `t`. -/
inductive ItemRuns (s : State) (i : Instr) : State → Prop
  /-- It has written its registers and has ended. -/
  | done {s' t : State} (hw : ItemWrites s i s') (he : ItemEnds s' t) : ItemRuns s i t
  /-- It has failed before it wrote any register. -/
  | fails (e : Err) (info : Int) : ItemRuns s i (s.raise e info)
  /-- It was refused (R158). -/
  | refuses (u : Reason) : ItemRuns s i (s.refuse u)
  /-- WB.END delivers the text (R134). -/
  | ends (hi : i = .wbEnd) : ItemRuns s i s.deliverText
  /-- A record whose label cannot be read has been opened, and no more (R138, R139). -/
  | cut {l : BitVec 7} {c c' : Nat} (hi : i = .wbLrec l) (hc : s.cur = some c) (hle : c ≤ c') (e : Err) (info : Int) :
      ItemRuns s i (((openRecord s c l).withCur c').raise e info)

/-! ### The shared ends -/

theorem Goes.ends {s t : State} (h : Goes s t) : ItemEnds s t := by
  obtain ⟨pt, -, rfl⟩ | ⟨b, rfl⟩ := h
  · exact .goto pt
  · exact .image b

theorem raise_ends {s t : State} (h : ∃ info, t = s.raise .truncatedPayload info) : ItemEnds s t := by
  obtain ⟨info, rfl⟩ := h
  exact .fails _ info

/-- A BASIC item ends, with `NL` behind its text where the buffer ended inside the line. -/
theorem Lists.ends {s t : State} {x : Text} {c : Nat} (h : Lists ((s.emit x).withCur c) t) :
    ∃ y, ItemEnds ((s.emit y).withCur c) t := by
  obtain rfl | rfl := h
  · exact ⟨x, .goto _⟩
  · exact ⟨x ++ [NL], by rw [← emit_emit]; exact .text⟩

/-- A BASIC line begins, or the program ends, behind whatever text `y` and at whatever cursor. -/
theorem startLine_ends {s t : State} (h : startLine s = .next t) {c : Nat} (hc : s.cur = some c) :
    ∃ y c', c ≤ c' ∧ ItemEnds ((s.emit y).withCur c') t := by
  have hs : (s.emit []).withCur c = s := by
    simp only [State.emit, State.withCur, List.append_nil, ← hc]
  obtain rfl | ⟨off, rfl⟩ | ⟨cur, x, hcur, h⟩ := startLine_lists h
  · exact ⟨[], c, le_rfl, by rw [hs]; exact .text⟩
  · exact ⟨[], c, le_rfl, by rw [hs]; exact .fails _ _⟩
  · obtain rfl : c = cur := Option.some.inj (hc.symm.trans hcur)
    obtain ⟨y, hy⟩ := h.ends
    exact ⟨y, c + 4, by omega, hy⟩

/-! ### The items that emit -/

/-- A BASIC token has run. -/
theorem emitToken_runs {i : Instr} (hi : emitsAt i.place = true) {s t : State} (hp : pendAfter i s.pend = s.pend) {x : Text}
    {len : Nat} (h : emitToken s x len = .next t) : ItemRuns s i t := by
  obtain ⟨cur, hc, h⟩ := emitToken_lists h
  obtain ⟨y, hy⟩ := h.ends
  refine .done (.emits hi y (cur + len) fun c h => .inl ?_) (by rw [hp]; exact hy)
  obtain rfl : cur = c := Option.some.inj (hc.symm.trans h)
  omega

/-- An operand has run that emits `x`, leaves `PEND` at `p` and goes on with the scan. -/
theorem scans_runs {i : Instr} (hi : emitsAt i.place = true) {s t : State} {x : Text} {p : Bool} (hp : pendAfter i s.pend = p)
    {c' : Nat} (hc : ∀ c, s.cur = some c → c ≤ c') (h : Scans ({ s.emit x with pend := p }.withCur c') t) :
    ItemRuns s i t := by
  obtain rfl | rfl := h
  · exact .done (.emits hi x c' fun c h => .inl (hc c h)) (hp ▸ .goto _)
  · refine .done (.emits hi (x ++ [NL]) c' fun c h => .inl (hc c h)) ?_
    rw [hp, ← emit_emit]
    exact .goto _

theorem scanFrom_runs {i : Instr} (hi : emitsAt i.place = true) {s t : State} {x : Text} {p : Bool}
    (hp : pendAfter i s.pend = p) {len : Nat} (h : scanFrom { s.emit x with pend := p } len = .next t) : ItemRuns s i t := by
  obtain ⟨cur, hcur, h⟩ := scanFrom_scans h
  refine scans_runs hi hp (fun c hc => ?_) h
  obtain rfl : cur = c := Option.some.inj (hcur.symm.trans hc)
  omega

/-- An item has run that uses up its record. -/
theorem endRecord_runs {i : Instr} (hi : emitsAt i.place = true) {s : State} {x : Text} {p : Bool}
    (hp : pendAfter i s.pend = p) {rend : Nat} (hr : s.rend = some rend) :
    ItemRuns s i (endRecord ({ s.emit x with pend := p }.withCur rend)) := by
  refine .done (.emits hi (x ++ [NL]) rend fun c _ => .inr hr) ?_
  rw [hp, ← emit_emit]
  exact .goto _

/-! ### Every item -/

theorem drawGroupPixel_runs {i : Instr} (hi : drawsAt i.place = true) {s t : State} {c : Rgba}
    (h : drawGroupPixel s c = .next t) : ItemRuns s i t := by
  obtain ⟨a, k, w, b, -, -, -, h⟩ := drawGroupPixel_next.1 h
  exact .done (.cells hi _) (nextGroupPixel_goes h).ends

theorem drawStamp_runs {i : Instr} (hi : drawsAt i.place = true) {s t : State} {v : BitVec 4} (h : drawStamp v s = .next t) :
    ItemRuns s i t := by
  obtain ⟨j, w, b, -, -, -, h⟩ := drawStamp_next.1 h
  exact .done (.cells hi _) (stampFrom_goes h).ends

theorem execScrhdr_runs {beg fin : Word16} {s t : State} (h : execScrhdr beg fin s = .next t) :
    ItemRuns s (.scrhdr beg fin) t := by
  obtain ⟨f, -, ⟨-, rfl⟩ | ⟨-, -, -, rfl⟩ | ⟨-, -, ⟨-, h⟩ | ⟨-, h⟩⟩⟩ := execScrhdr_next h
  · exact .done .screenHeader (.fails _ _)
  · exact .done .screenHeader (.fails _ _)
  · obtain ⟨po, h | h | h⟩ := palResolve_goes h
    · exact .done .screenHeader h.ends
    · exact .done .screenHeader (raise_ends h)
    · exact .done .screenHeader h.ends
  · exact .done .screenHeader (startPixels_goes h).ends

theorem execStphdr_runs {sw sh : Word16} {s t : State} (h : execStphdr sw sh s = .next t) : ItemRuns s (.stphdr sw sh) t := by
  obtain ⟨-, rfl⟩ | ⟨-, h⟩ := execStphdr_next h
  · exact .done .stampHeader (.fails _ _)
  · exact .done .stampHeader (stampFrom_goes h).ends

theorem execWbLrec_runs {l : BitVec 7} {s t : State} (h : execWbLrec l s = .next t) : ItemRuns s (.wbLrec l) t := by
  obtain ⟨cur, hc, ⟨e, info, rfl | rfl⟩ | ⟨-, x, ⟨-, rfl⟩ | ⟨-, rfl⟩⟩⟩ := execWbLrec_next h
  · exact .cut rfl hc (Nat.le_succ cur) e info
  · exact .cut rfl hc (by omega) e info
  · refine .done (.labelled hc (x ++ [NL])) ?_
    rw [← emit_emit]
    exact .goto _
  · exact .done (.labelled hc x) (.goto _)

/-- What an item of any operation does when it goes on or ends (R2, R17, R27 to R37). -/
theorem exec_runs {i : Instr} (hi : isItem i = true) {s t : State} (h : exec i s = .next t) : ItemRuns s i t := by
  cases i with
  | sc5 | sc7 | sc8 | s10 | s12 | bas | wb2 | stp | unknown => cases hi
  | palword r g b =>
    obtain ⟨src, j, -, h⟩ := execPalword_next h
    exact .done (.palette _) h.ends
  | nib high low =>
    obtain ⟨a, rb, b, -, -, -, h⟩ := execNib_next h
    exact .done (.cells rfl _) (nextNibbles_goes h).ends
  | rgb8 g r b =>
    obtain ⟨a, w, b, -, -, -, h⟩ := execRgb8_next h
    exact .done (.cells rfl _) (nextPackedRgb_goes h).ends
  | yjkgrp g0 g1 g2 g3 =>
    obtain ⟨a, -, rfl⟩ := execYjkgrp_next h
    exact .done (.chroma _ _ _) (.goto _)
  | yae idx =>
    obtain ⟨c, h⟩ := execYae_next h
    exact drawGroupPixel_runs rfl h
  | yjk y =>
    obtain ⟨c, h⟩ := execYjk_next h
    exact drawGroupPixel_runs rfl h
  | scrhdr beg fin => exact execScrhdr_runs h
  | stphdr sw sh => exact execStphdr_runs h
  | stp0 => exact drawStamp_runs rfl h
  | stp1 => exact drawStamp_runs rfl h
  | stphi low =>
    obtain rfl | ⟨v, h⟩ := execStphi_next h
    · exact .refuses _
    · exact drawStamp_runs rfl h
  | basFile =>
    obtain ⟨y, c', -, h⟩ := startLine_ends (s := s.withCur 1) h rfl
    exact .done (.basFile y c') h
  | basEol =>
    obtain ⟨cur, hc, h⟩ := execBasEol_next h
    obtain ⟨y, c', hle, h⟩ := startLine_ends h rfl
    refine .done (.emits rfl ([NL] ++ y) c' fun c hc' => .inl ?_) (by rw [← emit_emit]; exact h)
    obtain rfl : cur = c := Option.some.inj (hc.symm.trans hc')
    omega
  | basInt2 | basInt1 | basFlt4 | basColrem | basColelse | basExt | basPrim | basStr | basChr | basDig | basBcd =>
    exact emitToken_runs rfl rfl h
  | basUnl b =>
    obtain ⟨u, rfl⟩ | ⟨x, h⟩ := execBasUnl_next h
    · exact .refuses u
    · exact emitToken_runs rfl rfl h
  | wbFile =>
    cases h
    exact .done .wbFile (.goto _)
  | wbPrepass l =>
    obtain ⟨p, -, ⟨-, rfl⟩ | ⟨-, rfl⟩⟩ := execWbPrepass_next h
    · exact .done (.table _ _) (.goto _)
    · exact .done .skips (.goto _)
  | wbEnd =>
    cases h
    exact .ends rfl
  | wbBlank =>
    obtain ⟨cur, hc, rfl⟩ := execWbBlank_next h
    exact .done (.blank hc [NL]) (.goto _)
  | wbRec l =>
    obtain ⟨cur, hc, rfl⟩ := execWbRec_next h
    exact .done (.record hc) (.goto _)
  | wbLrec l => exact execWbLrec_runs h
  | wbSlot name =>
    have hscans := scanLoop_scans h
    obtain ⟨cur, -, hc, -⟩ := scanLoop_next.1 h
    refine scans_runs rfl rfl (c' := cur) (fun c hc' => ?_) ?_ (x := nameText name)
    · obtain rfl : cur = c := Option.some.inj (hc.symm.trans hc')
      rfl
    · have hs : (s.emit (nameText name)).withCur cur = s.emit (nameText name) := by
        simp only [State.withCur, ← hc]
      exact hs ▸ hscans
  | wbLcmt text =>
    obtain ⟨rend, x, hr, rfl⟩ := execWbLcmt_next h
    exact endRecord_runs rfl rfl hr
  | wbLmn m =>
    obtain ⟨cur, rend, x, hc, -, h⟩ := execWbLmn_next h
    refine scans_runs rfl rfl (c' := cur + 1) (fun c hc' => ?_) (scanLoop_scans h) (x := x)
    obtain rfl : cur = c := Option.some.inj (hc.symm.trans hc')
    omega
  | wbLunl b =>
    obtain ⟨u, rfl⟩ | ⟨rend, x, hr, rfl⟩ := execWbLunl_next h
    · exact .refuses u
    · exact endRecord_runs rfl rfl hr
  | wbCmt text =>
    obtain ⟨rend, x, hr, rfl⟩ := execWbCmt_next h
    exact endRecord_runs rfl rfl hr
  | wbOp | wbStr | wbNumd | wbNumh | wbNumb | wbLogic | wbCond | wbReg => exact scanFrom_runs rfl rfl h
  | wbLref idx =>
    obtain ⟨off, rfl⟩ | ⟨x, h⟩ := execWbLref_next h
    · exact .fails _ _
    · exact scanFrom_runs rfl rfl h
  | wbTunl b =>
    obtain ⟨u, rfl⟩ | ⟨x, h⟩ := execWbTunl_next h
    · exact .refuses u
    · exact scanFrom_runs rfl rfl h

end Sys2Proof.Machine
end

section
/-! The frames of the items: ports, cursor, flags, text and the other registers, each by the cases of `ItemRuns`. -/

namespace Sys2Proof.Machine

/-- An item's end writes no register but `RES`, `TXT`, `BUF` and the place. -/
theorem ItemEnds.frame {s t : State} (h : ItemEnds s t) :
    ∃ res op pt txt buf, t = { s with res := res, op := op, pt := pt, txt := txt, buf := buf } := by
  cases h <;> exact ⟨_, _, _, _, _, rfl⟩

theorem ItemRuns.samePorts {s t : State} {i : Instr} (h : ItemRuns s i t) : s.SamePorts t := by
  cases h with
  | done hw he =>
    obtain ⟨res, op, pt, txt, buf, rfl⟩ := he.frame
    cases hw <;> simp [State.SamePorts]
  | _ => simp [State.SamePorts]

/-! ### The cursor -/

/-- The cursor moves forward, except where BAS.FILE and the pre-pass set it (R17, R27). -/
theorem ItemRuns.cur_le {s t : State} {i : Instr} (h : ItemRuns s i t) (hfile : i ≠ .basFile) (hpre : ∀ l, i ≠ .wbPrepass l)
    {c c' : Nat} (hc : s.cur = some c) (hrend : ∀ r, s.rend = some r → c ≤ r) (hc' : t.cur = some c') : c ≤ c' := by
  have same (h : s.cur = some c') : c ≤ c' := (Option.some.inj (hc.symm.trans h)).le
  have behind {c₀ k : Nat} (h₀ : s.cur = some c₀) (h : some (c₀ + k) = some c') : c ≤ c' := by
    obtain rfl : c = c₀ := Option.some.inj (hc.symm.trans h₀)
    obtain rfl := Option.some.inj h
    omega
  cases h with
  | done hw he =>
    obtain ⟨res, op, pt, txt, buf, rfl⟩ := he.frame
    cases hw with
    | basFile => exact absurd rfl hfile
    | table => exact absurd rfl (hpre _)
    | emits hi x c₁ hmove =>
      obtain rfl : c₁ = c' := Option.some.inj hc'
      exact (hmove c hc).elim id (hrend c₁)
    | blank h₀ => exact behind h₀ hc'
    | record h₀ => exact behind h₀ hc'
    | labelled h₀ => exact behind (k := 1 + 2) h₀ hc'
    | _ => exact same hc'
  | cut hi h₀ hle =>
    obtain rfl := Option.some.inj hc'
    obtain rfl := Option.some.inj (hc.symm.trans h₀)
    exact hle
  | _ => exact same hc'

/-- Settles O21: among the registers an item writes, the cursor stands behind where it stood. -/
theorem cursorOnlyMovesForward : Obligations.CursorOnlyMovesForward :=
  fun _ _ _ _ _ hi hfile hpre hc hrend h hc' => (exec_runs hi h).cur_le hfile hpre hc hrend hc'

/-! ### The flags -/

/-- No item that draws writes a flag. -/
theorem flagsAfter_of_drawsAt {i : Instr} (hi : drawsAt i.place = true) (p l : Bool) :
    pendAfter i p = p ∧ lblAfter i l = l := by
  cases i with
  | nib | rgb8 | yae | yjk | stp0 | stp1 | stphi => exact ⟨rfl, rfl⟩
  | _ => cases hi

/-- `LBL` is written where a record begins, and not where an item emits. -/
theorem lblAfter_of_emitsAt {i : Instr} (hi : emitsAt i.place = true) (l : Bool) : lblAfter i l = l := by
  cases i with
  | wbBlank | wbRec | wbLrec => cases hi
  | _ => rfl

theorem ItemRuns.flags {s t : State} {i : Instr} (h : ItemRuns s i t) (ht : t.pt ≠ .dispatch) :
    t.pend = pendAfter i s.pend ∧ t.lbl = lblAfter i s.lbl := by
  cases h with
  | done hw he =>
    obtain ⟨res, op, pt, txt, buf, rfl⟩ := he.frame
    cases hw with
    | cells hi =>
      obtain ⟨hp, hl⟩ := flagsAfter_of_drawsAt hi s.pend s.lbl
      exact ⟨hp.symm, hl.symm⟩
    | emits hi => exact ⟨rfl, (lblAfter_of_emitsAt hi s.lbl).symm⟩
    | _ => exact ⟨rfl, rfl⟩
  | _ => exact absurd rfl ht

/-- Settles O22: the flags an item has written are those of the table `pendAfter`, `lblAfter`. -/
theorem flagsAreWrittenByTheirRules : Obligations.FlagsAreWrittenByTheirRules :=
  fun _ _ _ hi h ht => (exec_runs hi h).flags ht

/-! ### The registers with one writer -/

theorem ItemRuns.screenRegisters {s t : State} {i : Instr} (h : ItemRuns s i t) (hi : ∀ x y, i ≠ .scrhdr x y) :
    t.begA = s.begA ∧ t.endA = s.endA ∧ t.w = s.w ∧ t.rb = s.rb ∧ t.h = s.h ∧ t.cap = s.cap ∧ t.eff = s.eff ∧
      t.poff = s.poff := by
  cases h with
  | done hw he =>
    obtain ⟨res, op, pt, txt, buf, rfl⟩ := he.frame
    cases hw with
    | screenHeader => exact absurd rfl (hi _ _)
    | _ => simp
  | _ => simp

theorem ItemRuns.pal_eq {s t : State} {i : Instr} (h : ItemRuns s i t) (hhdr : ∀ x y, i ≠ .scrhdr x y)
    (hword : ∀ r g b, i ≠ .palword r g b) : t.pal = s.pal := by
  cases h with
  | done hw he =>
    obtain ⟨res, op, pt, txt, buf, rfl⟩ := he.frame
    cases hw with
    | screenHeader => exact absurd rfl (hhdr _ _)
    | palette => exact absurd rfl (hword _ _ _)
    | _ => simp
  | _ => simp

theorem ItemRuns.chromaRegisters {s t : State} {i : Instr} (h : ItemRuns s i t) (hi : ∀ g0 g1 g2 g3, i ≠ .yjkgrp g0 g1 g2 g3) :
    t.grp = s.grp ∧ t.kc = s.kc ∧ t.jc = s.jc := by
  cases h with
  | done hw he =>
    obtain ⟨res, op, pt, txt, buf, rfl⟩ := he.frame
    cases hw with
    | chroma => exact absurd rfl (hi _ _ _ _)
    | _ => simp
  | _ => simp

theorem ItemRuns.stampRegisters {s t : State} {i : Instr} (h : ItemRuns s i t) (hi : ∀ x y, i ≠ .stphdr x y) :
    t.sw = s.sw ∧ t.sh = s.sh ∧ t.n = s.n := by
  cases h with
  | done hw he =>
    obtain ⟨res, op, pt, txt, buf, rfl⟩ := he.frame
    cases hw with
    | stampHeader => exact absurd rfl (hi _ _)
    | _ => simp
  | _ => simp

theorem ItemRuns.tbl_eq {s t : State} {i : Instr} (h : ItemRuns s i t) (hi : ∀ l, i ≠ .wbPrepass l) : t.tbl = s.tbl := by
  cases h with
  | done hw he =>
    obtain ⟨res, op, pt, txt, buf, rfl⟩ := he.frame
    cases hw with
    | table => exact absurd rfl (hi _)
    | _ => simp
  | _ => simp

theorem ItemRuns.rend_eq {s t : State} {i : Instr} (h : ItemRuns s i t) (hrec : ∀ l, i ≠ .wbRec l)
    (hlrec : ∀ l, i ≠ .wbLrec l) : t.rend = s.rend := by
  cases h with
  | done hw he =>
    obtain ⟨res, op, pt, txt, buf, rfl⟩ := he.frame
    cases hw with
    | record => exact absurd rfl (hrec _)
    | labelled => exact absurd rfl (hlrec _)
    | _ => simp
  | cut hi => exact absurd hi (hlrec _)
  | _ => simp

/-- Settles O23: each group of registers is left by every item but its writer. -/
theorem registersHaveOneWriter : Obligations.RegistersHaveOneWriter := by
  intro i s t hi h
  have hruns := exec_runs hi h
  exact ⟨hruns.screenRegisters, hruns.pal_eq, hruns.chromaRegisters, hruns.stampRegisters, hruns.tbl_eq, hruns.rend_eq⟩

/-! ### The text -/

/-- The places in which the walkers emit text. -/
abbrev ListsAt (pl : Place) : Prop := emitsAt pl = true ∨ pl = .basSignature ∨ pl = .recordLength

theorem ItemWrites.txt {s s' : State} {i : Instr} (h : ItemWrites s i s') :
    s'.txt = s.txt ∨ (ListsAt i.place ∧ s.txt <+: s'.txt) := by
  cases h with
  | basFile x c => exact .inr ⟨.inr (.inl rfl), List.prefix_append ..⟩
  | emits hi x c' hc => exact .inr ⟨.inl hi, List.prefix_append ..⟩
  | blank hc x => exact .inr ⟨.inr (.inr rfl), List.prefix_append ..⟩
  | labelled hc x => exact .inr ⟨.inr (.inr rfl), List.prefix_append ..⟩
  | _ => exact .inl rfl

/-- The text was discarded by a failure or a refusal (R157, R158). -/
abbrev State.Discarded (t : State) : Prop :=
  t.txt = [] ∧ ((∃ e info, t.res = some (.fail e info)) ∨ ∃ u, t.res = some (.unmodelled u))

theorem ItemEnds.txt {s t : State} (h : ItemEnds s t) : t.txt = s.txt ∨ t.Discarded := by
  cases h with
  | fails e info => exact .inr ⟨rfl, .inl ⟨e, info, rfl⟩⟩
  | _ => exact .inl rfl

/-- An item discards the text, leaves it, or, in a walker's place, appends to it. -/
theorem ItemRuns.txt {s t : State} {i : Instr} (h : ItemRuns s i t) :
    t.Discarded ∨ t.txt = s.txt ∨ (ListsAt i.place ∧ s.txt <+: t.txt) := by
  cases h with
  | done hw he =>
    obtain ht | hdisc := he.txt
    · exact .inr (ht ▸ hw.txt)
    · exact .inl hdisc
  | fails e info => exact .inl ⟨rfl, .inl ⟨e, info, rfl⟩⟩
  | refuses u => exact .inl ⟨rfl, .inr ⟨u, rfl⟩⟩
  | ends => exact .inr (.inl rfl)
  | cut hi hc hle e info => exact .inl ⟨rfl, .inl ⟨e, info, rfl⟩⟩

/-- Settles O24: an item that neither leaves nor discards the text appends to it, and it stands in a walker's place. -/
theorem textOnlyGrows : Obligations.TextOnlyGrows := by
  intro i s t hi h
  obtain hdisc | heq | ⟨hplace, hprefix⟩ := (exec_runs hi h).txt
  · exact ⟨.inr hdisc, fun _ => .inr hdisc.1⟩
  · exact ⟨.inl (heq ▸ List.prefix_refl _), fun _ => .inl heq⟩
  · refine ⟨.inl hprefix, fun hpicture => absurd hplace ?_⟩
    obtain ⟨f, h⟩ | h | h | h | h | h | h | h := hpicture <;> simp [h, emitsAt]

end Sys2Proof.Machine
end

section
/-! Steps and runs: how a step takes an item or an operation, and what is kept by every item of a run is kept by the run. -/

namespace Sys2Proof.Machine

/-! ### Taking an item -/

/-- Every rejection is a failure of the state itself (R155). -/
theorem takeReject_eq_raise (s : State) (r : Reject) : ∃ e info, takeReject s r = s.raise e info := by
  unfold takeReject
  split
  · exact ⟨_, _, rfl⟩
  · exact ⟨_, _, rfl⟩
  · split <;> exact ⟨_, _, rfl⟩
  · split <;> exact ⟨_, _, rfl⟩

/-- An item is taken by running what the bytes at its place spell, or by failing. -/
theorem takeItem_next {run : Instr → State → Out} {s t : State} (h : takeItem run s = .next t) :
    (∃ i bs rest, decode (placeOf s) bs = .ok (i, rest) ∧ run i s = .next t) ∨ ∃ e info, t = s.raise e info := by
  unfold takeItem at h
  split at h
  next => cases h
  next bs _ =>
    split at h
    next r hdec => exact .inl ⟨r.1, bs, r.2, hdec, h⟩
    next r _ =>
      obtain ⟨e, info, hr⟩ := takeReject_eq_raise s r
      exact .inr ⟨e, info, by rw [← hr]; exact (Host.Outcome.next.inj h).symm⟩

/-- In the middle of an invocation a step and a run take the same item (R177). -/
theorem takeItem_runItem {s : State} (hs : s.pt ≠ .dispatch) : takeItem runItem s = step s := by
  unfold step takeItem
  split
  · rfl
  · split
    next r hdec => exact runItem_eq_exec (nextItem_isItem hs hdec) s
    next => rfl

/-- What every item keeps, a whole run keeps, and it ends at dispatch. -/
theorem runItems_keeps {P : State → Prop} (hP : ∀ s t, P s → s.pt ≠ .dispatch → step s = .next t → P t) {n : Nat} {s t : State}
    (hs : P s) (h : runItems n s = .next t) : P t ∧ t.pt = .dispatch := by
  induction n generalizing s with
  | zero =>
    unfold runItems at h
    split at h
    · cases h; exact ⟨hs, ‹_›⟩
    · cases h
  | succ n ih =>
    unfold runItems at h
    split at h
    next hpt => cases h; exact ⟨hs, hpt⟩
    next hpt =>
      rw [takeItem_runItem hpt] at h
      cases hstep : step s with
      | next u =>
        rw [hstep] at h
        exact ih (hP s u hs hpt hstep) h
      | fault f => simp [hstep] at h
      | refused r => simp [hstep] at h

/-! ### Operations -/

theorem exec_legal (o : Operation) (s : State) : exec (decodeTag (.legal o)) s = runItems (itemBound s) (s.enter o) := by
  cases o with
  | screen f => cases f <;> rfl
  | bas | wb2 | stp => rfl

theorem exec_other (k : Nat) (s : State) : exec (decodeTag (.other k)) s = .next (s.fresh.raise .unknownFormat k) := rfl

/-- What is no item is the operation of a tag (R2, R55). -/
theorem eq_decodeTag_of_not_isItem {i : Instr} (h : isItem i = false) : ∃ tag, i = decodeTag tag := by
  cases i with
  | sc5 => exact ⟨.legal (.screen .sc5), rfl⟩
  | sc7 => exact ⟨.legal (.screen .sc7), rfl⟩
  | sc8 => exact ⟨.legal (.screen .sc8), rfl⟩
  | s10 => exact ⟨.legal (.screen .s10), rfl⟩
  | s12 => exact ⟨.legal (.screen .s12), rfl⟩
  | bas => exact ⟨.legal .bas, rfl⟩
  | wb2 => exact ⟨.legal .wb2, rfl⟩
  | stp => exact ⟨.legal .stp, rfl⟩
  | unknown n => exact ⟨.other n, rfl⟩
  | _ => cases h

/-- At dispatch a step runs the operation of the tag (R156). -/
theorem step_dispatch {s : State} (h : s.pt = .dispatch) : step s = exec (decodeTag s.tag) s := by
  simp [step, takeItem, nextBytes, placeOf, decode, h]

/-! ### The ports -/

theorem State.SamePorts.trans {s t u : State} (hst : s.SamePorts t) (htu : t.SamePorts u) : s.SamePorts u := by
  obtain ⟨htag, hd, hcfg, hp⟩ := hst
  obtain ⟨htag', hd', hcfg', hp'⟩ := htu
  exact ⟨htag'.trans htag, hd'.trans hd, hcfg'.trans hcfg, hp'.trans hp⟩

theorem step_samePorts_of_item {s t : State} (hs : s.pt ≠ .dispatch) (h : step s = .next t) : s.SamePorts t := by
  obtain ⟨i, bs, rest, hdec, h⟩ | ⟨e, info, rfl⟩ := takeItem_next h
  · exact (exec_runs (nextItem_isItem hs hdec) h).samePorts
  · exact ⟨rfl, rfl, rfl, rfl⟩

theorem runItems_samePorts {n : Nat} {s t : State} (h : runItems n s = .next t) : s.SamePorts t :=
  (runItems_keeps (P := s.SamePorts) (fun _ _ hu hpt hstep => hu.trans (step_samePorts_of_item hpt hstep))
    ⟨rfl, rfl, rfl, rfl⟩ h).1

theorem exec_decodeTag_samePorts {tag : Tag} {s t : State} (h : exec (decodeTag tag) s = .next t) : s.SamePorts t := by
  cases tag with
  | legal o =>
    rw [exec_legal] at h
    have hs : s.SamePorts (s.enter o) := ⟨rfl, rfl, rfl, rfl⟩
    exact hs.trans (runItems_samePorts h)
  | other k =>
    rw [exec_other] at h
    cases h
    exact ⟨rfl, rfl, rfl, rfl⟩

/-- No instruction writes a port or a parameter (R18, R38, R48). -/
theorem exec_samePorts {i : Instr} {s t : State} (h : exec i s = .next t) : s.SamePorts t := by
  cases hi : isItem i with
  | true => exact (exec_runs hi h).samePorts
  | false =>
    obtain ⟨tag, rfl⟩ := eq_decodeTag_of_not_isItem hi
    exact exec_decodeTag_samePorts h

theorem step_samePorts {s t : State} (h : step s = .next t) : s.SamePorts t := by
  obtain ⟨i, bs, rest, -, h⟩ | ⟨e, info, rfl⟩ := takeItem_next h
  · exact exec_samePorts h
  · exact ⟨rfl, rfl, rfl, rfl⟩

/-- Settles O16: items leave the ports by their frame, operations by induction over their items. -/
theorem portsAreNeverWritten : Obligations.PortsAreNeverWritten := by
  intro i s t h
  obtain ⟨htag, hd, hcfg, hp⟩ := exec_samePorts h
  rw [htag, hd, hcfg, hp]
  exact ⟨rfl, rfl, rfl, rfl, rfl, fun _ => rfl, rfl, fun e he => ⟨e, he, fun _ => rfl⟩, id⟩

/-! ### Reset and load -/

/-- At the start of an invocation no register is set that the invariant speaks of (R40). -/
theorem fresh_inv {s : State} (hd : s.d.wf) (hext : ∀ e, s.cfg.ext = some e → e.wf) : s.fresh.Inv where
  input := hd
  external := hext
  buffer := nofun
  result := nofun
  kc := nofun
  jc := nofun
  unwritten := fun h => absurd rfl h
  place := rfl

/-- Settles O8: reset and every load leave the start of an invocation, and a load lists the bytes of `D` in order. -/
theorem resetMeetsInvariant : Obligations.ResetMeetsInvariant :=
  ⟨fresh_inv (s := State.reset) rfl nofun,
    fun s tag bytes cfg hext => fresh_inv (s := { s with tag := tag, d := Memory.ofBytes bytes, cfg := cfg }) (ofBytes_wf bytes) hext⟩

end Sys2Proof.Machine
end

section
/-! The container's name and the verbosity have no effect: every meaning gives the same outcome when they are changed (R25, D62). -/

namespace Sys2Proof.Machine

/-- The state with another container name and another verbosity. -/
def State.relabel (s : State) (name : Text) (verbose : Bool) : State :=
  { s with cfg := { s.cfg with container := name, verbose := verbose } }

/-- An outcome with another container name and another verbosity in its state. -/
def relabelOut (name : Text) (verbose : Bool) : Out → Out
  | .next s => .next (s.relabel name verbose)
  | .fault f => .fault f
  | .refused r => .refused r

/-- A meaning gives the same outcome under another container name and another verbosity. -/
def IgnoresLabels (f : State → Out) : Prop :=
  ∀ (s : State) (name : Text) (verbose : Bool), f (s.relabel name verbose) = relabelOut name verbose (f s)

section
variable {name : Text} {verbose : Bool}

@[simp] theorem relabel_d (s : State) : (s.relabel name verbose).d = s.d := rfl
@[simp] theorem relabel_p (s : State) : (s.relabel name verbose).p = s.p := rfl
@[simp] theorem relabel_ext (s : State) : (s.relabel name verbose).cfg.ext = s.cfg.ext := rfl
@[simp] theorem relabel_pt (s : State) : (s.relabel name verbose).pt = s.pt := rfl
@[simp] theorem relabel_cur (s : State) : (s.relabel name verbose).cur = s.cur := rfl
@[simp] theorem relabel_txt (s : State) : (s.relabel name verbose).txt = s.txt := rfl
@[simp] theorem relabel_lbl (s : State) : (s.relabel name verbose).lbl = s.lbl := rfl

theorem need_relabel {α : Type} {r : Reg} {o : Option α} {k k' : α → Out} (h : ∀ a, k' a = relabelOut name verbose (k a)) :
    need r o k' = relabelOut name verbose (need r o k) := by
  cases o with
  | none => rfl
  | some a => exact h a

theorem ite_relabel {c : Prop} [Decidable c] {x y x' y' : Out} (hx : x' = relabelOut name verbose x)
    (hy : y' = relabelOut name verbose y) : (if c then x' else y') = relabelOut name verbose (if c then x else y) := by
  split
  · exact hx
  · exact hy

end

/-! ### Control flow -/

theorem finishScreen_ignores : IgnoresLabels finishScreen := fun s name verbose =>
  need_relabel fun f => need_relabel fun b => by
    cases kindOf f with
    | idx => exact need_relabel fun _ => rfl
    | rgba => rfl

theorem startPixels_ignores : IgnoresLabels startPixels := fun s name verbose =>
  need_relabel fun f => need_relabel fun beg => need_relabel fun eff => by
    cases variantOf f <;> exact ite_relabel rfl (finishScreen_ignores s name verbose)

theorem nextNibbles_ignores (a : Nat) : IgnoresLabels (nextNibbles · a) := fun s name verbose =>
  need_relabel fun _ => ite_relabel rfl (finishScreen_ignores s name verbose)

theorem nextPackedRgb_ignores (a : Nat) : IgnoresLabels (nextPackedRgb · a) := fun s name verbose =>
  need_relabel fun _ => ite_relabel rfl (finishScreen_ignores s name verbose)

theorem nextGroup_ignores (a : Nat) : IgnoresLabels (nextGroup · a) := fun s name verbose =>
  need_relabel fun _ => ite_relabel rfl (finishScreen_ignores s name verbose)

theorem nextGroupPixel_ignores (a : Nat) (k : Fin 4) : IgnoresLabels (nextGroupPixel · a k) := fun s name verbose => by
  unfold nextGroupPixel
  split
  · rfl
  · exact nextGroup_ignores a s name verbose

theorem drawGroupPixel_ignores (c : Rgba) : IgnoresLabels (drawGroupPixel · c) := fun s name verbose =>
  need_relabel fun _ => need_relabel fun _ => need_relabel fun _ => nextGroupPixel_ignores _ _ (s.withBuf _) name verbose

theorem finishStamp_ignores : IgnoresLabels finishStamp := fun _ _ _ => need_relabel fun _ => rfl

theorem stampFrom_ignores (i : Nat) : IgnoresLabels (stampFrom · i) := fun s name verbose =>
  need_relabel fun _ => ite_relabel rfl (finishStamp_ignores s name verbose)

theorem drawStamp_ignores (v : BitVec 4) : IgnoresLabels (drawStamp v) := fun s name verbose =>
  need_relabel fun _ => need_relabel fun _ => need_relabel fun _ => stampFrom_ignores _ (s.withBuf _) name verbose

theorem tokenLoop_ignores : IgnoresLabels tokenLoop := fun _ _ _ => need_relabel fun _ => ite_relabel rfl rfl

theorem startLine_ignores : IgnoresLabels startLine := fun s name verbose =>
  need_relabel fun cur => ite_relabel rfl <| by
    rw [relabel_d]
    cases s.d.read16 cur with
    | none => rfl
    | some link =>
      refine ite_relabel rfl ?_
      cases s.d.read16 (cur + 2) with
      | none => rfl
      | some ln => exact tokenLoop_ignores ((s.emit _).withCur _) name verbose

theorem emitToken_ignores (t : Text) (len : Nat) : IgnoresLabels (emitToken · t len) := fun s name verbose =>
  need_relabel fun _ => tokenLoop_ignores ((s.emit t).withCur _) name verbose

theorem scanLoop_ignores : IgnoresLabels scanLoop := fun s name verbose =>
  need_relabel fun cur => need_relabel fun rend => by
    by_cases h : cur < rend
    · simp only [h, if_true]; rfl
    · simp only [h, if_false]; rfl

theorem scanFrom_ignores (len : Nat) : IgnoresLabels (scanFrom · len) := fun s name verbose =>
  need_relabel fun _ => scanLoop_ignores (s.withCur _) name verbose

theorem endAtRend_ignores : IgnoresLabels endAtRend := fun _ _ _ => need_relabel fun _ => rfl

/-! ### Items -/

theorem palFallback_ignores : IgnoresLabels palFallback := fun s name verbose => by
  unfold palFallback
  rw [relabel_ext]
  cases s.cfg.ext with
  | none => exact startPixels_ignores { s with pal := s.p.defpal.map some } name verbose
  | some e => exact ite_relabel rfl rfl

theorem palResolve_ignores : IgnoresLabels palResolve := fun s name verbose =>
  need_relabel fun f => need_relabel fun beg => need_relabel fun fin => by
    have hfall (po : Option (Option Word16)) := palFallback_ignores { s with poff := po } name verbose
    rw [relabel_p]
    cases paletteOffsetOf s.p f with
    | none => exact hfall (some none)
    | some po =>
      refine ite_relabel ?_ (hfall (some (some po)))
      cases phys beg.toNat po.toNat with
      | none => rfl
      | some base => exact ite_relabel rfl rfl

theorem execPalword_ignores (r g b : BitVec 3) : IgnoresLabels (execPalword r g b) := fun s name verbose =>
  need_relabel fun at_ => by
    dsimp only
    split
    · rfl
    · exact startPixels_ignores { s with pal := s.pal.set at_.2 (some (palWord s.p r g b)) } name verbose

theorem execScrhdr_ignores (beg fin : Word16) : IgnoresLabels (execScrhdr beg fin) := fun s name verbose =>
  need_relabel fun f => ite_relabel rfl <| ite_relabel rfl <|
    ite_relabel (palResolve_ignores (s.afterPreamble f beg fin) name verbose)
      (startPixels_ignores (s.afterPreamble f beg fin) name verbose)

theorem execNib_ignores (hi lo : BitVec 4) : IgnoresLabels (execNib hi lo) := fun s name verbose =>
  need_relabel fun _ => need_relabel fun _ => need_relabel fun _ => nextNibbles_ignores _ (s.withBuf _) name verbose

theorem execRgb8_ignores (g r : BitVec 3) (b : BitVec 2) : IgnoresLabels (execRgb8 g r b) := fun s name verbose =>
  need_relabel fun _ => need_relabel fun _ => need_relabel fun _ => nextPackedRgb_ignores _ (s.withBuf _) name verbose

theorem execStphdr_ignores (sw sh : Word16) : IgnoresLabels (execStphdr sw sh) := fun s name verbose =>
  ite_relabel rfl <|
    stampFrom_ignores 0
      (State.withBuf { s with sw := some sw.toNat, sh := some sh.toNat, n := some (sw.toNat * sh.toNat) } _) name verbose

theorem execStphi_ignores (low : BitVec 1) : IgnoresLabels (execStphi low) := fun s name verbose => by
  unfold execStphi
  rw [relabel_p]
  cases s.p.stampHigh with
  | refuse => rfl
  | draw two three => exact drawStamp_ignores _ s name verbose

theorem execBasUnl_ignores (b : Byte) : IgnoresLabels (execBasUnl b) := fun s name verbose => by
  unfold execBasUnl
  rw [relabel_p]
  cases s.p.basUnlisted with
  | refuse => exact need_relabel fun _ => rfl
  | emit t => exact emitToken_ignores t 1 s name verbose

theorem execWbLrec_ignores (l : BitVec 7) : IgnoresLabels (execWbLrec l) := fun s name verbose =>
  need_relabel fun cur => ite_relabel rfl <| by
    rw [relabel_d]
    cases s.d.read16 (cur + 1) with
    | none => rfl
    | some idx =>
      refine need_relabel fun tbl => ?_
      cases labelName s.d tbl idx.toNat with
      | none => rfl
      | some label => exact ite_relabel rfl rfl

theorem execWbLcmt_ignores (text : List Byte) : IgnoresLabels (execWbLcmt text) := fun s name verbose => by
  unfold execWbLcmt
  rw [relabel_lbl]
  cases s.lbl with
  | true => exact endAtRend_ignores ((s.pad 8).emit _) name verbose
  | false => exact endAtRend_ignores (s.emit _) name verbose

theorem execWbLmn_ignores (m : BitVec 7) : IgnoresLabels (execWbLmn m) := fun s name verbose =>
  need_relabel fun cur => need_relabel fun rend => by
    by_cases h : 0 < rend - (cur + 1)
    · simp only [h, if_true]
      exact scanLoop_ignores ((((s.pad 8).emit _).withCur _).pad 14) name verbose
    · simp only [h, if_false]
      exact scanLoop_ignores (((s.pad 8).emit _).withCur _) name verbose

theorem execWbLunl_ignores (b : Byte) : IgnoresLabels (execWbLunl b) := fun s name verbose => by
  unfold execWbLunl
  rw [relabel_p]
  cases s.p.wbUnlisted with
  | refuse => exact need_relabel fun _ => rfl
  | emit t => exact endAtRend_ignores (s.emit t) name verbose

theorem execWbCmt_ignores (text : List Byte) : IgnoresLabels (execWbCmt text) := fun s name verbose => by
  unfold execWbCmt
  by_cases h : col s.txt < 30
  · simp only [relabel_txt, h, if_true]
    exact endAtRend_ignores ((s.pad 30).emitDropping _) name verbose
  · simp only [relabel_txt, h, if_false]
    exact endAtRend_ignores ((s.emit [SP]).emitDropping _) name verbose

theorem execWbLref_ignores (idx : Word16) : IgnoresLabels (execWbLref idx) := fun s name verbose =>
  need_relabel fun tbl => by
    rw [relabel_d]
    cases labelName s.d tbl idx.toNat with
    | none => rfl
    | some label => exact scanFrom_ignores 3 (s.emitAtom (nameText label)) name verbose

theorem execWbTunl_ignores (b : Byte) : IgnoresLabels (execWbTunl b) := fun s name verbose => by
  unfold execWbTunl
  rw [relabel_p]
  cases s.p.wbUnlisted with
  | refuse => exact need_relabel fun _ => rfl
  | emit t => exact scanFrom_ignores 1 (s.emit t) name verbose

/-- No item's meaning depends on the container's name or on the verbosity (R25, D62). -/
theorem runItem_ignores (i : Instr) : IgnoresLabels (runItem i) := fun s name verbose => by
  cases i with
  | sc5 | sc7 | sc8 | s10 | s12 | bas | wb2 | stp | unknown => rfl
  | palword r g b => exact execPalword_ignores r g b s name verbose
  | nib hi lo => exact execNib_ignores hi lo s name verbose
  | rgb8 g r b => exact execRgb8_ignores g r b s name verbose
  | yjkgrp => exact need_relabel fun _ => rfl
  | yae => exact need_relabel fun _ => drawGroupPixel_ignores _ s name verbose
  | yjk => exact need_relabel fun _ => need_relabel fun _ => drawGroupPixel_ignores _ s name verbose
  | scrhdr beg fin => exact execScrhdr_ignores beg fin s name verbose
  | stphdr sw sh => exact execStphdr_ignores sw sh s name verbose
  | stp0 => exact drawStamp_ignores 1 s name verbose
  | stp1 => exact drawStamp_ignores 0 s name verbose
  | stphi low => exact execStphi_ignores low s name verbose
  | basFile => exact startLine_ignores (s.withCur 1) name verbose
  | basEol => exact need_relabel fun _ => startLine_ignores ((s.emit [NL]).withCur _) name verbose
  | basInt2 | basInt1 | basFlt4 | basColrem | basColelse | basExt | basPrim | basStr | basChr | basDig | basBcd =>
    exact emitToken_ignores _ _ s name verbose
  | basUnl b => exact execBasUnl_ignores b s name verbose
  | wbFile | wbEnd => rfl
  | wbPrepass => exact need_relabel fun _ => ite_relabel rfl rfl
  | wbBlank | wbRec => exact need_relabel fun _ => rfl
  | wbLrec l => exact execWbLrec_ignores l s name verbose
  | wbSlot label => exact scanLoop_ignores (s.emit (nameText label)) name verbose
  | wbLcmt text => exact execWbLcmt_ignores text s name verbose
  | wbLmn m => exact execWbLmn_ignores m s name verbose
  | wbLunl b => exact execWbLunl_ignores b s name verbose
  | wbCmt text => exact execWbCmt_ignores text s name verbose
  | wbOp => exact scanFrom_ignores 1 (s.emitDropping _) name verbose
  | wbStr | wbNumd | wbNumh | wbNumb | wbLogic | wbCond | wbReg => exact scanFrom_ignores _ (s.emitAtom _) name verbose
  | wbLref idx => exact execWbLref_ignores idx s name verbose
  | wbTunl b => exact execWbTunl_ignores b s name verbose

/-! ### Runs -/

section
variable (s : State) (name : Text) (verbose : Bool)

theorem nextBytes_relabel : nextBytes (s.relabel name verbose) = nextBytes s := rfl

theorem placeOf_relabel : placeOf (s.relabel name verbose) = placeOf s := rfl

theorem takeReject_relabel (r : Reject) :
    takeReject (s.relabel name verbose) r = (takeReject s r).relabel name verbose := by
  simp only [takeReject, relabel_pt, relabel_cur]
  cases r with
  | shortHeader | badSignature => rfl
  | noLengthByte => cases s.pt <;> rfl
  | truncated => cases s.pt <;> cases s.cur <;> rfl

end

theorem takeItem_ignores : IgnoresLabels (takeItem runItem) := fun s name verbose => by
  unfold takeItem
  rw [nextBytes_relabel, placeOf_relabel]
  split
  · rfl
  · split
    next r _ => exact runItem_ignores r.1 s name verbose
    next r _ => rw [takeReject_relabel]; rfl

theorem runItems_ignores (n : Nat) : IgnoresLabels (runItems n) := by
  induction n with
  | zero => exact fun s name verbose => ite_relabel rfl rfl
  | succ n ih =>
    refine fun s name verbose => ite_relabel rfl ?_
    rw [takeItem_ignores s name verbose]
    cases takeItem runItem s with
    | next t => exact ih t name verbose
    | fault | refused => rfl

/-! ### Invocations -/

theorem fresh_eq_of_samePorts {s s' : State} (h : s.SamePorts s') : s'.fresh = s.fresh := by
  obtain ⟨htag, hd, hcfg, hp⟩ := h
  simp only [State.fresh, htag, hd, hcfg, hp]

/-- An invocation is a function of the ports and the parameters (R22). -/
theorem step_eq_of_samePorts {s s' : State} (hs : s.pt = .dispatch) (hs' : s'.pt = .dispatch) (h : s.SamePorts s') :
    step s = step s' := by
  rw [step_dispatch hs, step_dispatch hs', h.1]
  cases s.tag with
  | legal o => rw [exec_legal, exec_legal, State.enter, State.enter, fresh_eq_of_samePorts h, itemBound, itemBound, h.2.1]
  | other k => rw [exec_other, exec_other, fresh_eq_of_samePorts h]

theorem step_relabel {s : State} (hs : s.pt = .dispatch) (name : Text) (verbose : Bool) :
    step (s.relabel name verbose) = relabelOut name verbose (step s) := by
  have hs' : (s.relabel name verbose).pt = .dispatch := hs
  rw [step_dispatch hs, step_dispatch hs', show (s.relabel name verbose).tag = s.tag from rfl]
  cases s.tag with
  | legal o =>
    rw [exec_legal, exec_legal]
    exact runItems_ignores _ (s.enter o) name verbose
  | other k => rfl

/-- Settles O14: an invocation starts from its ports alone, and no item reads the container's name or the verbosity. -/
theorem equalPortsGiveEqualResults : Obligations.EqualPortsGiveEqualResults := by
  refine ⟨fun _ _ => step_eq_of_samePorts, fun s s' t hs hs' htag hd hp hdouble hext h => ?_⟩
  have hcfg : s'.cfg = (s.relabel s'.cfg.container s'.cfg.verbose).cfg := by
    simp only [State.relabel, ← hdouble, ← hext]
  have hports : (s.relabel s'.cfg.container s'.cfg.verbose).SamePorts s' := ⟨htag, hd, hcfg, hp⟩
  obtain ⟨-, -, ht, -⟩ := step_samePorts h
  rw [← step_eq_of_samePorts (s := s.relabel s'.cfg.container s'.cfg.verbose) hs hs' hports, step_relabel hs, h, hcfg]
  simp only [relabelOut, State.relabel, ht]

end Sys2Proof.Machine
end

section
/-! Which instructions a place can spell (R55 to R69). -/

namespace Sys2Proof

/-- What is read, if anything is, satisfies `P`. -/
def Reads (P : Instr → Prop) (r : Except Reject (Instr × List Byte)) : Prop := ∀ i rest, r = .ok (i, rest) → P i

theorem reads_ok {P : Instr → Prop} {i : Instr} {rest : List Byte} (h : P i) : Reads P (.ok (i, rest)) := by
  intro j rest' hj
  cases hj
  exact h

theorem reads_error {P : Instr → Prop} {e : Reject} : Reads P (.error e) := nofun

theorem reads_ite {P : Instr → Prop} {c : Prop} [Decidable c] {x y : Except Reject (Instr × List Byte)} (hx : Reads P x)
    (hy : Reads P y) : Reads P (if c then x else y) := by
  split
  · exact hx
  · exact hy

/-- An instruction belongs to the place it is read in; a YJK byte is also read in the place of a YAE byte (R59). -/
def SpelledAt (pl : Place) (i : Instr) : Prop := i.place = pl ∨ (pl = .groupPixel true ∧ i.place = .groupPixel false)

theorem SpelledAt.place_eq {pl : Place} {i : Instr} (h : SpelledAt pl i) (hpl : pl ≠ .groupPixel true) : i.place = pl :=
  h.resolve_right fun h => hpl h.1

theorem decodeTag_place (t : Tag) : (decodeTag t).place = .operation t := by
  cases t with
  | other n => rfl
  | legal o =>
    cases o with
    | screen f => cases f <;> rfl
    | bas | wb2 | stp => rfl

theorem decodeGroupPixel_spelledAt (yae : Bool) (g : Byte) : SpelledAt (.groupPixel yae) (decodeGroupPixel yae g) := by
  unfold decodeGroupPixel
  cases yae with
  | false => exact .inl rfl
  | true =>
    split
    · exact .inl rfl
    · exact .inr ⟨rfl, rfl⟩

theorem decodeStampPair_place (v : Byte) : (decodeStampPair v).place = .stampPair := by
  unfold decodeStampPair
  split
  · rfl
  · split <;> rfl

theorem decodeLength_place (b : Byte) : (decodeLength b).place = .recordLength := by
  unfold decodeLength
  split
  · rfl
  · split
    · rfl
    · split <;> rfl

theorem decodeLead_place (bs : List Byte) : Reads (·.place = .lead) (decodeLead bs) := by
  cases bs with
  | nil => exact reads_error
  | cons b rest => exact reads_ite (reads_ok rfl) <| reads_ite (reads_ok rfl) (reads_ok rfl)

theorem decodeBasToken_place (bs : List Byte) : Reads (·.place = .basToken) (decodeBasToken bs) := by
  cases bs with
  | nil => exact reads_error
  | cons b rest =>
    refine reads_ite (reads_ok rfl) <| reads_ite ?_ <| reads_ite ?_ <| reads_ite ?_ <| reads_ite (reads_ok rfl) <|
      reads_ite (reads_ok rfl) <| reads_ite ?_ <| reads_ite (reads_ok rfl) <| reads_ite (reads_ok rfl) <|
      reads_ite (reads_ok rfl) <| reads_ite (reads_ok rfl) (reads_ok rfl)
    all_goals
      split
      · exact reads_ok rfl
      · exact reads_error

theorem decodeOperand16_place {f : Word16 → Instr} (hf : ∀ v, (f v).place = .operand) (bs : List Byte) :
    Reads (·.place = .operand) (decodeOperand16 f bs) := by
  unfold decodeOperand16
  split
  · exact reads_ok (hf _)
  · exact reads_error

theorem decodeOperand_place (bs : List Byte) : Reads (·.place = .operand) (decodeOperand bs) := by
  cases bs with
  | nil => exact reads_error
  | cons b rest =>
    have cut {f : Word16 → Instr} (hf : ∀ v, (f v).place = .operand) := decodeOperand16_place hf rest
    exact reads_ite (reads_ok rfl) <| reads_ite (reads_ok rfl) <| reads_ite (reads_ok rfl) <|
      reads_ite (cut fun _ => rfl) <| reads_ite (cut fun _ => rfl) <| reads_ite (cut fun _ => rfl) <|
      reads_ite (cut fun _ => rfl) <| reads_ite (reads_ok rfl) <| reads_ite (reads_ok rfl) <|
      reads_ite (reads_ok rfl) (reads_ok rfl)

/-- What is decoded in a place is an instruction of that place. -/
theorem decode_spelledAt (pl : Place) (bs : List Byte) : Reads (SpelledAt pl) (decode pl bs) := by
  have here {i : Instr} {rest : List Byte} (h : i.place = pl) : Reads (SpelledAt pl) (.ok (i, rest)) := reads_ok (.inl h)
  unfold decode
  split
  any_goals exact reads_error
  any_goals exact here rfl
  next t => exact here (decodeTag_place t)
  next yae g rest => exact reads_ok (decodeGroupPixel_spelledAt yae g)
  next v rest => exact here (decodeStampPair_place v)
  next => exact reads_ite (here rfl) reads_error
  next => exact fun i rest h => .inl (decodeBasToken_place _ i rest h)
  next => exact reads_ite (here rfl) reads_error
  next l rest => exact here (decodeLength_place l)
  next =>
    split
    · exact here rfl
    · exact reads_error
  next => exact fun i rest h => .inl (decodeLead_place _ i rest h)
  next => exact fun i rest h => .inl (decodeOperand_place _ i rest h)

end Sys2Proof
end

section
/-! The invariant of an invocation in progress, without its ports: every shared operation of the control flow answers a next
state that meets it. -/

namespace Sys2Proof.Machine

/-- An invocation of `o` is in progress, at whatever place: `RES` is empty, the buffer is canonical and the chroma registers
are in range. -/
structure State.Mid (s : State) (o : Operation) : Prop where
  op : s.op = some o
  unwritten : s.res = none
  buffer : ∀ b, s.buf = some b → b.wf = true
  kc : ∀ v, s.kc = some v → -32 ≤ v ∧ v ≤ 31
  jc : ∀ v, s.jc = some v → -32 ≤ v ∧ v ≤ 31

/-- The operations that draw a picture (R26). -/
def DrawsPicture (o : Operation) : Prop := o = .stp ∨ ∃ f, o = .screen f

/-- The operations that list a program (R26). -/
def ListsText (o : Operation) : Prop := o = .bas ∨ o = .wb2

/-- An invocation of `o` is in progress at a place that is ready, or has ended with a result of its kind. -/
structure State.Runs (s : State) (o : Operation) : Prop where
  buffer : ∀ b, s.buf = some b → b.wf = true
  kc : ∀ v, s.kc = some v → -32 ≤ v ∧ v ≤ 31
  jc : ∀ v, s.jc = some v → -32 ≤ v ∧ v ≤ 31
  place : s.Ready
  inside : s.pt ≠ .dispatch → s.op = some o ∧ s.res = none
  image : ∀ b, s.res = some (.image b) → b.wf = true ∧ DrawsPicture o
  text : ∀ x, s.res = some (.text x) → ListsText o

/-- An outcome is a next state in which the invocation of `o` is in progress or has ended. -/
def Lands (o : Operation) (out : Out) : Prop := ∃ t, out = .next t ∧ t.Runs o

theorem State.Runs.mid {s : State} {o : Operation} (h : s.Runs o) (hs : s.pt ≠ .dispatch) : s.Mid o where
  op := (h.inside hs).1
  unwritten := (h.inside hs).2
  buffer := h.buffer
  kc := h.kc
  jc := h.jc

/-! ### How an item ends -/

section
variable {s t : State} {o : Operation}

theorem State.Mid.congr (h : s.Mid o) (hop : t.op = s.op) (hres : t.res = s.res) (hbuf : t.buf = s.buf) (hkc : t.kc = s.kc)
    (hjc : t.jc = s.jc) : t.Mid o where
  op := hop.trans h.op
  unwritten := hres.trans h.unwritten
  buffer := hbuf ▸ h.buffer
  kc := hkc ▸ h.kc
  jc := hjc ▸ h.jc

theorem State.Mid.withBuf (h : s.Mid o) {b : Buf} (hb : b.wf = true) : (s.withBuf b).Mid o :=
  { h with buffer := fun _ hb' => Option.some.inj hb' ▸ hb }

theorem State.Mid.goto (h : s.Mid o) {pt : Point} (hr : (s.goto pt).Ready) : Lands o (.next (s.goto pt)) := by
  refine ⟨_, rfl, { h with place := hr, inside := fun _ => ⟨h.op, h.unwritten⟩, image := fun b hb => ?_, text := fun x hx => ?_ }⟩
  · exact absurd (h.unwritten.symm.trans hb) nofun
  · exact absurd (h.unwritten.symm.trans hx) nofun

theorem State.Mid.raise (h : s.Mid o) (e : Err) (info : Int) : Lands o (.next (s.raise e info)) :=
  ⟨_, rfl, { h with buffer := nofun, place := rfl, inside := fun hpt => absurd rfl hpt, image := nofun, text := nofun }⟩

theorem State.Mid.refuse (h : s.Mid o) (u : Reason) : Lands o (.next (s.refuse u)) :=
  ⟨_, rfl, { h with buffer := nofun, place := rfl, inside := fun hpt => absurd rfl hpt, image := nofun, text := nofun }⟩

theorem State.Mid.deliverText (h : s.Mid o) (ho : ListsText o) : Lands o (.next s.deliverText) :=
  ⟨_, rfl, { h with place := rfl, inside := fun hpt => absurd rfl hpt, image := nofun, text := fun _ _ => ho }⟩

theorem State.Mid.deliverImage (h : s.Mid o) (ho : DrawsPicture o) {b : Buf} (hb : b.wf = true) :
    Lands o (.next (s.deliverImage b)) := by
  have hwf := postDouble_wf s.cfg.double hb
  refine ⟨_, rfl, { h with
    place := rfl, inside := fun hpt => absurd rfl hpt, text := nofun, buffer := fun b' hb' => ?_, image := fun b' hb' => ?_ }⟩
  · cases hb'; exact hwf
  · cases hb'; exact ⟨hwf, ho⟩

end

/-! ### Screens -/

section
variable {s : State} {o : Operation} {f : Screen} {beg : Word16} {last : Nat}

theorem State.ScreenSet.goto (h : s.ScreenSet f beg last) (pt : Point) : (s.goto pt).ScreenSet f beg last :=
  ⟨h.op, h.begA, h.endA, h.eff, h.w, h.rb, h.buf, h.bound, h.payload⟩

theorem State.ScreenSet.withPal (h : s.ScreenSet f beg last) (pal : Vector (Option Rgb) 16) :
    ({ s with pal := pal } : State).ScreenSet f beg last :=
  ⟨h.op, h.begA, h.endA, h.eff, h.w, h.rb, h.buf, h.bound, h.payload⟩

theorem State.ScreenSet.withChroma (h : s.ScreenSet f beg last) (g : Option (Vector Byte 4)) (kc jc : Option Int) :
    ({ s with grp := g, kc := kc, jc := jc } : State).ScreenSet f beg last :=
  ⟨h.op, h.begA, h.endA, h.eff, h.w, h.rb, h.buf, h.bound, h.payload⟩

theorem State.ScreenSet.withBuf (h : s.ScreenSet f beg last) {b : Buf} (hb : b.kind = kindOf f) :
    (s.withBuf b).ScreenSet f beg last :=
  ⟨h.op, h.begA, h.endA, h.eff, h.w, h.rb, ⟨b, rfl, hb⟩, h.bound, h.payload⟩

theorem resolvesPalette_of_kind {f : Screen} (h : kindOf f = .idx) : resolvesPalette f = true := by
  cases f with
  | sc5 | sc7 | s10 => rfl
  | sc8 | s12 => cases h

/-- The palette of a format that has one is read whole at the end of the picture (R100, R101). -/
theorem exists_colours (hp : s.PaletteSet f) : ∃ colours : List Rgb, kindOf f = .idx → s.pal.toList = colours.map some := by
  by_cases hk : kindOf f = .idx
  · have hset : ∀ c ∈ s.pal.toList, c.isSome = true := by
      intro c hc
      obtain ⟨j, hj, rfl⟩ := List.mem_iff_getElem.1 hc
      exact hp (resolvesPalette_of_kind hk) ⟨j, by simpa using hj⟩
    obtain ⟨colours, h⟩ := allSet_of_isSome hset
    exact ⟨colours, fun _ => allSet_eq_some.1 h⟩
  · exact ⟨[], fun h => absurd h hk⟩

theorem finishedBuf_wf {b : Buf} (hb : b.wf = true) (f : Screen) (colours : List Rgb) : (finishedBuf f b colours).wf = true := by
  unfold finishedBuf
  split <;> exact hb

theorem EndsPicture.lands {b : Buf} {out : Out} (h : EndsPicture s f b out) (hm : s.Mid (.screen f)) (hp : s.PaletteSet f)
    (hb : b.wf = true) : Lands (.screen f) out := by
  obtain ⟨colours, hc⟩ := exists_colours hp
  rw [h colours hc]
  exact hm.deliverImage (.inr ⟨f, rfl⟩) (finishedBuf_wf hb f colours)

theorem finishScreen_lands (hm : s.Mid (.screen f)) (hs : s.ScreenSet f beg last) (hp : s.PaletteSet f) :
    Lands (.screen f) (finishScreen s) := by
  obtain ⟨b, hb, -⟩ := hs.buf
  exact (finishScreen_ends hs.op hb).lands hm hp (hm.buffer b hb)

/-- The first place of the pixel loop is ready (R92, R94, R99). -/
theorem firstItem_ready (hs : s.ScreenSet f beg last) (hp : s.PaletteSet f) {pt : Point}
    (h : firstItem f beg.toNat last = some pt) : (s.goto pt).Ready := by
  unfold firstItem at h
  split at h
  next hv =>
    obtain ⟨hlt, h⟩ := Option.ite_none_right_eq_some.1 h
    cases h
    exact ⟨f, beg, last, hs.goto _, hv, hp, le_rfl, hlt⟩
  next hv =>
    obtain ⟨hlt, h⟩ := Option.ite_none_right_eq_some.1 h
    cases h
    exact ⟨f, beg, last, hs.goto _, hv, hp, le_rfl, hlt⟩
  next hv =>
    obtain ⟨hle, h⟩ := Option.ite_none_right_eq_some.1 h
    cases h
    exact ⟨f, beg, last, hs.goto _, hv, hp, le_rfl, hle⟩

theorem startPixels_lands (hm : s.Mid (.screen f)) (hs : s.ScreenSet f beg last) (hp : s.PaletteSet f) :
    Lands (.screen f) (startPixels s) := by
  obtain ⟨b, hb, -⟩ := hs.buf
  have hstart := startPixels_of hs.op hs.begA hs.eff hb
  unfold StartsPixels at hstart
  split at hstart
  next pt hpt => exact hstart ▸ hm.goto (firstItem_ready hs hp hpt)
  next => exact hstart.lands hm hp (hm.buffer b hb)

theorem nextNibbles_lands {a : Nat} (hm : s.Mid (.screen f)) (hs : s.ScreenSet f beg last) (hp : s.PaletteSet f)
    (hv : variantOf f = .a) (ha : beg.toNat ≤ a) : Lands (.screen f) (nextNibbles s a) := by
  rw [nextNibbles, need_of hs.eff]
  split
  next hlt => exact hm.goto ⟨f, beg, last, hs.goto _, hv, hp, by omega, hlt⟩
  next => exact finishScreen_lands hm hs hp

theorem nextPackedRgb_lands {a : Nat} (hm : s.Mid (.screen f)) (hs : s.ScreenSet f beg last) (hp : s.PaletteSet f)
    (hv : variantOf f = .b) (ha : beg.toNat ≤ a) : Lands (.screen f) (nextPackedRgb s a) := by
  rw [nextPackedRgb, need_of hs.eff]
  split
  next hlt => exact hm.goto ⟨f, beg, last, hs.goto _, hv, hp, by omega, hlt⟩
  next => exact finishScreen_lands hm hs hp

theorem nextGroup_lands {a : Nat} (hm : s.Mid (.screen f)) (hs : s.ScreenSet f beg last) (hp : s.PaletteSet f)
    (hv : variantOf f = .c) (ha : beg.toNat ≤ a) : Lands (.screen f) (nextGroup s a) := by
  rw [nextGroup, need_of hs.eff]
  split
  next hle => exact hm.goto ⟨f, beg, last, hs.goto _, hv, hp, by omega, hle⟩
  next => exact finishScreen_lands hm hs hp

/-- The registers that the pixels of the group at `a` read are set (R95 to R97). -/
structure State.GroupSet (s : State) (f : Screen) (beg : Word16) (last a : Nat) : Prop where
  screen : s.ScreenSet f beg last
  variant : variantOf f = .c
  palette : s.PaletteSet f
  begins : beg.toNat ≤ a
  ends : a + 4 ≤ last
  grp : s.grp.isSome = true
  kc : s.kc.isSome = true
  jc : s.jc.isSome = true

theorem State.GroupSet.ready {a : Nat} (h : s.GroupSet f beg last a) (k : Fin 4) : (s.goto (.groupPixel a k)).Ready :=
  ⟨⟨f, beg, last, h.screen.goto _, h.variant, h.palette, h.begins, h.ends⟩, h.grp, h.kc, h.jc⟩

theorem State.GroupSet.withBuf {a : Nat} (h : s.GroupSet f beg last a) {b : Buf} (hb : b.kind = kindOf f) :
    (s.withBuf b).GroupSet f beg last a :=
  ⟨h.screen.withBuf hb, h.variant, h.palette, h.begins, h.ends, h.grp, h.kc, h.jc⟩

theorem nextGroupPixel_lands {a : Nat} (hm : s.Mid (.screen f)) (hg : s.GroupSet f beg last a) (k : Fin 4) :
    Lands (.screen f) (nextGroupPixel s a k) := by
  unfold nextGroupPixel
  split
  next => exact hm.goto (hg.ready _)
  next => exact nextGroup_lands hm hg.screen hg.palette hg.variant hg.begins

theorem drawGroupPixel_lands {a : Nat} {k : Fin 4} (hpt : s.pt = .groupPixel a k) (hm : s.Mid (.screen f))
    (hg : s.GroupSet f beg last a) (c : Rgba) : Lands (.screen f) (drawGroupPixel s c) := by
  obtain ⟨w, hw⟩ := hg.screen.w
  obtain ⟨b, hb, hk⟩ := hg.screen.buf
  rw [drawGroupPixel, needGroupPixel_of hpt, need_of hw, need_of hb]
  exact nextGroupPixel_lands (hm.withBuf (write_wf _ _ _ (hm.buffer b hb))) (hg.withBuf ((write_kind ..).trans hk)) k

/-! ### The palette -/

theorem palFallback_lands (hm : s.Mid (.screen f)) (hs : s.ScreenSet f beg last) : Lands (.screen f) (palFallback s) := by
  unfold palFallback
  split
  next e he =>
    split
    next => exact hm.raise _ _
    next hsize => exact hm.goto ⟨f, beg, last, hs.goto _, fun j hj => absurd hj (Nat.not_lt_zero _), e, he, by omega⟩
  next => exact startPixels_lands (hm.congr rfl rfl rfl rfl rfl) (hs.withPal _) fun _ j => by simp

theorem palResolve_lands (hm : s.Mid (.screen f)) (hs : s.ScreenSet f beg last)
    (hpoff : s.poff = some (paletteOffsetOf s.p f)) : Lands (.screen f) (palResolve s) := by
  obtain ⟨fin, hfin⟩ := hs.endA
  rw [palResolve_of hs.op hs.begA hfin hpoff]
  split
  next => exact palFallback_lands hm hs
  next po _ =>
    split
    next =>
      split
      next => exact hm.raise _ _
      next base _ =>
        split
        next => exact hm.raise _ _
        next hsize =>
          exact hm.goto ⟨f, beg, last, hs.goto _, fun j hj => absurd hj (Nat.not_lt_zero _), Nat.le_of_not_lt hsize⟩
    next => exact palFallback_lands hm hs

/-- Writing the next entry sets one entry more of the palette (R77, R78). -/
theorem palette_set_isSome {pal : Vector (Option Rgb) 16} {i : Fin 16} (h : ∀ j : Fin 16, j < i → (pal[j]).isSome = true)
    (c : Rgb) {j : Fin 16} (hj : j.val < i.val + 1) : ((pal.set i (some c))[j]).isSome = true := by
  by_cases hij : i = j
  · subst hij; simp
  · have hne : i.val ≠ j.val := fun e => hij (Fin.ext e)
    have hlt : j < i := by simp only [Fin.lt_def]; omega
    simpa [hne] using h j hlt

theorem execPalword_lands {r g b : BitVec 3} {src : PalSource} {i : Fin 16} (hpt : s.pt = .paletteWord src i)
    (hm : s.Mid o) (hr : s.Ready) : Lands o (execPalword r g b s) := by
  simp only [State.Ready, hpt] at hr
  obtain ⟨f, beg, last, hs, hset, hsrc⟩ := hr
  obtain rfl : o = .screen f := Option.some.inj (hm.op.symm.trans hs.op)
  have hm' : ({ s with pal := s.pal.set i (some (palWord s.p r g b)) } : State).Mid (.screen f) := hm.congr rfl rfl rfl rfl rfl
  rw [execPalword, needPaletteIndex_of hpt]
  dsimp only
  split
  next h => exact hm'.goto ⟨f, beg, last, (hs.withPal _).goto _, fun j hj => palette_set_isSome hset _ hj, hsrc⟩
  next h =>
    exact startPixels_lands hm' (hs.withPal _) fun _ j =>
      palette_set_isSome hset _ (Nat.lt_of_lt_of_le j.isLt (Nat.le_of_not_lt h))

theorem State.Mid.afterPreamble (hm : s.Mid (.screen f)) (beg fin : Word16) : (s.afterPreamble f beg fin).Mid (.screen f) :=
  { hm with buffer := fun _ hb => Option.some.inj hb ▸ new_wf _ _ _ _ }

theorem afterPreamble_screenSet {fin : Word16} (hop : s.op = some (.screen f))
    (hpay : ¬ (beg.toNat < pictureEnd f s fin ∧ s.d.size < 7 + (pictureEnd f s fin - beg.toNat))) :
    (s.afterPreamble f beg fin).ScreenSet f beg (pictureEnd f s fin) where
  op := hop
  begA := rfl
  endA := ⟨fin, rfl⟩
  eff := rfl
  w := ⟨_, rfl⟩
  rb := ⟨_, rfl⟩
  buf := ⟨_, rfl, rfl⟩
  bound := (min_le_left ..).trans (by have := fin.isLt; omega)
  payload := show _ ∨ _ ≤ s.d.size by omega

theorem execScrhdr_lands (hm : s.Mid (.screen f)) (beg fin : Word16) : Lands (.screen f) (execScrhdr beg fin s) := by
  rw [execScrhdr, needScreen_of hm.op]
  dsimp only
  split
  next =>
    refine State.Mid.raise ?_ _ _
    exact hm.congr rfl rfl rfl rfl rfl
  next =>
    split
    next =>
      refine State.Mid.raise ?_ _ _
      exact hm.congr rfl rfl rfl rfl rfl
    next hpay =>
      have hm' := hm.afterPreamble beg fin
      have hs := afterPreamble_screenSet (beg := beg) (fin := fin) hm.op hpay
      split
      next => exact palResolve_lands hm' hs rfl
      next hres => exact startPixels_lands hm' hs fun h => absurd h hres

/-! ### Pixel items -/

theorem execNib_lands {hi lo : BitVec 4} {a : Nat} (hpt : s.pt = .nibbles a) (hm : s.Mid o) (hr : s.Ready) :
    Lands o (execNib hi lo s) := by
  simp only [State.Ready, hpt] at hr
  obtain ⟨f, beg, last, hs, hv, hp, ha, -⟩ := hr
  obtain rfl : o = .screen f := Option.some.inj (hm.op.symm.trans hs.op)
  obtain ⟨rb, hrb⟩ := hs.rb
  obtain ⟨b, hb, hk⟩ := hs.buf
  rw [execNib, needNibbleAddress_of hpt, need_of hrb, need_of hb]
  exact nextNibbles_lands (hm.withBuf (write_wf _ _ _ (write_wf _ _ _ (hm.buffer b hb))))
    (hs.withBuf (by rw [write_kind, write_kind, hk])) hp hv ha

theorem execRgb8_lands {g r : BitVec 3} {bl : BitVec 2} {a : Nat} (hpt : s.pt = .packedRgb a) (hm : s.Mid o)
    (hr : s.Ready) : Lands o (execRgb8 g r bl s) := by
  simp only [State.Ready, hpt] at hr
  obtain ⟨f, beg, last, hs, hv, hp, ha, -⟩ := hr
  obtain rfl : o = .screen f := Option.some.inj (hm.op.symm.trans hs.op)
  obtain ⟨w, hw⟩ := hs.w
  obtain ⟨b, hb, hk⟩ := hs.buf
  rw [execRgb8, needRgbAddress_of hpt, need_of hw, need_of hb]
  exact nextPackedRgb_lands (hm.withBuf (write_wf _ _ _ (hm.buffer b hb))) (hs.withBuf ((write_kind ..).trans hk)) hp hv ha

/-- A chroma value has 6 bits and a sign (R13, R37). -/
theorem sext6_range (v : BitVec 6) : -32 ≤ sext6 v ∧ sext6 v ≤ 31 := by
  have := v.isLt
  unfold sext6
  split <;> omega

theorem execYjkgrp_lands {g0 g1 g2 g3 : Byte} {a : Nat} (hpt : s.pt = .group a) (hm : s.Mid o) (hr : s.Ready) :
    Lands o (execYjkgrp g0 g1 g2 g3 s) := by
  simp only [State.Ready, hpt] at hr
  obtain ⟨f, beg, last, hs, hv, hp, ha, hlast⟩ := hr
  obtain rfl : o = .screen f := Option.some.inj (hm.op.symm.trans hs.op)
  rw [execYjkgrp, needGroupAddress_of hpt]
  refine State.Mid.goto ?_ (State.GroupSet.ready (f := f) (beg := beg) (last := last) ?_ 0)
  · exact {
      hm with
      kc := fun v hv => Option.some.inj hv ▸ sext6_range _
      jc := fun v hv => Option.some.inj hv ▸ sext6_range _ }
  · exact ⟨hs.withChroma _ _ _, hv, hp, ha, hlast, rfl, rfl, rfl⟩

theorem groupSet_of_ready {a : Nat} {k : Fin 4} (hpt : s.pt = .groupPixel a k) (hr : s.Ready) :
    ∃ f beg last, s.GroupSet f beg last a := by
  simp only [State.Ready, hpt] at hr
  obtain ⟨⟨f, beg, last, hs, hv, hp, ha, hlast⟩, hgrp, hkc, hjc⟩ := hr
  exact ⟨f, beg, last, hs, hv, hp, ha, hlast, hgrp, hkc, hjc⟩

/-- A YAE byte reads an entry of a palette that has been resolved (R96, R99). -/
theorem execYae_lands {idx : BitVec 4} {a : Nat} {k : Fin 4} (hpt : s.pt = .groupPixel a k) (hm : s.Mid o)
    (hg : s.GroupSet f beg last a) (hyae : resolvesPalette f = true) : Lands o (execYae idx s) := by
  obtain rfl : o = .screen f := Option.some.inj (hm.op.symm.trans hg.screen.op)
  obtain ⟨c, hc⟩ := Option.isSome_iff_exists.1 (hg.palette hyae ⟨idx.toNat, idx.isLt⟩)
  rw [Fin.getElem_fin] at hc
  rw [execYae, need_of hc]
  exact drawGroupPixel_lands hpt hm hg _

theorem execYjk_lands {y : BitVec 5} {a : Nat} {k : Fin 4} (hpt : s.pt = .groupPixel a k) (hm : s.Mid o)
    (hg : s.GroupSet f beg last a) : Lands o (execYjk y s) := by
  obtain rfl : o = .screen f := Option.some.inj (hm.op.symm.trans hg.screen.op)
  obtain ⟨jc, hjc⟩ := Option.isSome_iff_exists.1 hg.jc
  obtain ⟨kc, hkc⟩ := Option.isSome_iff_exists.1 hg.kc
  rw [execYjk, need_of hjc, need_of hkc]
  exact drawGroupPixel_lands hpt hm hg _

end

/-! ### Stamps -/

section
variable {s : State}

theorem stampFrom_lands (hm : s.Mid .stp) {w n : Nat} {b : Buf} (hw : s.sw = some w) (hb : s.buf = some b) (hn : s.n = some n)
    (hsize : 4 + ceilDiv n 4 ≤ s.d.size) (i : Nat) : Lands .stp (stampFrom s i) := by
  rw [stampFrom, need_of hn]
  split
  next hlt =>
    exact hm.goto ⟨hm.op, Option.isSome_iff_exists.2 ⟨w, hw⟩, Option.isSome_iff_exists.2 ⟨b, hb⟩, n, hn, hlt, hsize⟩
  next =>
    rw [finishStamp, need_of hb]
    exact hm.deliverImage (.inl rfl) (scale_wf _ _ _)

theorem execStphdr_lands (hm : s.Mid .stp) (sw sh : Word16) : Lands .stp (execStphdr sw sh s) := by
  unfold execStphdr
  dsimp only
  split
  next =>
    refine State.Mid.raise ?_ _ _
    exact hm.congr rfl rfl rfl rfl rfl
  next hsize =>
    refine stampFrom_lands (State.Mid.withBuf (s := { s with sw := _, sh := _, n := _ }) ?_ (new_wf _ _ _ _)) rfl rfl rfl
      (Nat.le_of_not_lt hsize) 0
    exact hm.congr rfl rfl rfl rfl rfl

theorem drawStamp_lands {i : Nat} (hpt : s.pt = .stampPair i) (hm : s.Mid .stp) (hr : s.Ready) (v : BitVec 4) :
    Lands .stp (drawStamp v s) := by
  simp only [State.Ready, hpt] at hr
  obtain ⟨-, hsw, hbuf, n, hn, -, hsize⟩ := hr
  obtain ⟨w, hw⟩ := Option.isSome_iff_exists.1 hsw
  obtain ⟨b, hb⟩ := Option.isSome_iff_exists.1 hbuf
  rw [drawStamp, needStampIndex_of hpt, need_of hw, need_of hb]
  exact stampFrom_lands (hm.withBuf (write_wf _ _ _ (hm.buffer b hb))) hw rfl hn hsize _

theorem execStphi_lands {i : Nat} (hpt : s.pt = .stampPair i) (hm : s.Mid .stp) (hr : s.Ready) (low : BitVec 1) :
    Lands .stp (execStphi low s) := by
  unfold execStphi
  split
  next => exact hm.refuse _
  next => exact drawStamp_lands hpt hm hr _

end

/-! ### BASIC -/

section
variable {s : State} {c : Nat}

theorem tokenLoop_lands (hm : s.Mid .bas) (hc : s.cur = some c) : Lands .bas (tokenLoop s) := by
  rw [tokenLoop, need_of hc]
  split
  next hlt => exact hm.goto ⟨hm.op, c, hc, hlt⟩
  next =>
    refine State.Mid.deliverText ?_ (.inl rfl)
    exact hm.congr rfl rfl rfl rfl rfl

theorem emitToken_lands (hm : s.Mid .bas) (hc : s.cur = some c) (x : Text) (len : Nat) : Lands .bas (emitToken s x len) := by
  rw [emitToken, need_of hc]
  exact tokenLoop_lands (hm.congr rfl rfl rfl rfl rfl) rfl

theorem startLine_lands (hm : s.Mid .bas) (hc : s.cur = some c) : Lands .bas (startLine s) := by
  rw [startLine, need_of hc]
  split
  next => exact hm.deliverText (.inl rfl)
  next =>
    split
    next => exact hm.raise _ _
    next =>
      split
      next => exact hm.deliverText (.inl rfl)
      next =>
        split
        next => exact hm.raise _ _
        next => exact tokenLoop_lands (hm.congr rfl rfl rfl rfl rfl) rfl

theorem execBasEol_lands (hm : s.Mid .bas) (hc : s.cur = some c) : Lands .bas (execBasEol s) := by
  rw [execBasEol, need_of hc]
  exact startLine_lands (hm.congr rfl rfl rfl rfl rfl) rfl

theorem execBasUnl_lands (hm : s.Mid .bas) (hc : s.cur = some c) (b : Byte) : Lands .bas (execBasUnl b s) := by
  unfold execBasUnl
  split
  next => rw [need_of hc]; exact hm.refuse _
  next => exact emitToken_lands hm hc _ _

/-- A BASIC token lands wherever `cur` is set (R110 to R123). -/
theorem basToken_lands {i : Instr} (hi : i.place = .basToken) (hm : s.Mid .bas) (hc : s.cur = some c) :
    Lands .bas (exec i s) := by
  cases i with
  | basEol => exact execBasEol_lands hm hc
  | basUnl b => exact execBasUnl_lands hm hc b
  | basInt2 | basInt1 | basFlt4 | basColrem | basColelse | basExt | basPrim | basStr | basChr | basDig =>
    exact emitToken_lands hm hc _ _
  | _ => cases hi

end

/-! ### WBASS2 -/

/-- A record is under way: what its items read is set (R35, R36, R138). -/
structure State.InRecord (s : State) (c r tb : Nat) : Prop where
  mid : s.Mid .wb2
  cur : s.cur = some c
  rend : s.rend = some r
  tbl : s.tbl = some tb

section
variable {s : State} {c r tb : Nat}

theorem inRecord_of_ready (hm : s.Mid .wb2) (hc : s.cur.isSome = true) (hr : s.rend.isSome = true) (ht : s.tbl.isSome = true) :
    ∃ c r tb, s.InRecord c r tb := by
  obtain ⟨c, hc⟩ := Option.isSome_iff_exists.1 hc
  obtain ⟨r, hr⟩ := Option.isSome_iff_exists.1 hr
  obtain ⟨tb, ht⟩ := Option.isSome_iff_exists.1 ht
  exact ⟨c, r, tb, hm, hc, hr, ht⟩

/-- Text and flags are not among what the items of a record read. -/
theorem State.InRecord.emitted (h : s.InRecord c r tb) (x : Text) (p l : Bool) :
    ({ s with txt := x, pend := p, lbl := l } : State).InRecord c r tb :=
  ⟨h.mid.congr rfl rfl rfl rfl rfl, h.cur, h.rend, h.tbl⟩

theorem State.InRecord.withCur (h : s.InRecord c r tb) (c' : Nat) : (s.withCur c').InRecord c' r tb :=
  ⟨h.mid.congr rfl rfl rfl rfl rfl, rfl, h.rend, h.tbl⟩

theorem State.InRecord.ready (h : s.InRecord c r tb) :
    s.op = some .wb2 ∧ s.cur.isSome = true ∧ s.rend.isSome = true ∧ s.tbl.isSome = true := by
  simp only [h.mid.op, h.cur, h.rend, h.tbl, Option.isSome_some, and_self]

theorem endRecord_lands (hm : s.Mid .wb2) (hc : s.cur = some c) (ht : s.tbl = some tb) : Lands .wb2 (.next (endRecord s)) :=
  State.Mid.goto (s := s.emit [NL]) (hm.congr rfl rfl rfl rfl rfl)
    ⟨hm.op, Option.isSome_iff_exists.2 ⟨c, hc⟩, Option.isSome_iff_exists.2 ⟨tb, ht⟩⟩

theorem scanLoop_lands (h : s.InRecord c r tb) : Lands .wb2 (scanLoop s) := by
  rw [scanLoop, need_of h.cur, need_of h.rend]
  split
  next => exact h.mid.goto h.ready
  next => exact endRecord_lands h.mid h.cur h.tbl

theorem scanFrom_lands (h : s.InRecord c r tb) (len : Nat) : Lands .wb2 (scanFrom s len) := by
  rw [scanFrom, need_of h.cur]
  exact scanLoop_lands (h.withCur _)

theorem endAtRend_lands (h : s.InRecord c r tb) : Lands .wb2 (endAtRend s) := by
  rw [endAtRend, need_of h.rend]
  exact endRecord_lands (h.withCur r).mid rfl h.tbl

theorem execWbPrepass_lands {p : Nat} (hpt : s.pt = .prepass p) (hm : s.Mid .wb2) (l : Byte) :
    Lands .wb2 (execWbPrepass l s) := by
  rw [execWbPrepass, needPrepassOffset_of hpt]
  split
  next =>
    refine State.Mid.goto ?_ ⟨hm.op, rfl, rfl⟩
    exact hm.congr rfl rfl rfl rfl rfl
  next => exact hm.goto hm.op

theorem openRecord_inRecord (hm : s.Mid .wb2) (ht : s.tbl = some tb) (c : Nat) (l : BitVec 7) :
    (openRecord s c l).InRecord (c + 1) (c + 1 + l.toNat) tb :=
  ⟨hm.congr rfl rfl rfl rfl rfl, rfl, rfl, ht⟩

theorem execWbLrec_lands (hm : s.Mid .wb2) (hc : s.cur = some c) (ht : s.tbl = some tb) (l : BitVec 7) :
    Lands .wb2 (execWbLrec l s) := by
  have h := openRecord_inRecord hm ht c l
  rw [execWbLrec, need_of hc]
  dsimp only
  split
  next => exact h.mid.raise _ _
  next =>
    split
    next => exact h.mid.raise _ _
    next =>
      have h' := h.withCur (c + 1 + 2)
      rw [need_of ht]
      split
      next => exact h'.mid.raise _ _
      next name _ =>
        have h'' := h'.emitted (s.txt ++ (nameText name ++ [0x3A])) false true
        split
        next => exact endRecord_lands h''.mid h''.cur h''.tbl
        next => exact h''.mid.goto h''.ready

/-- A length byte of the main pass lands wherever `cur` and `TBL` are set (R134 to R138). -/
theorem recordLength_lands {i : Instr} (hi : i.place = .recordLength) (hm : s.Mid .wb2) (hc : s.cur = some c)
    (ht : s.tbl = some tb) : Lands .wb2 (exec i s) := by
  cases i with
  | wbEnd => exact hm.deliverText (.inr rfl)
  | wbBlank =>
    rw [exec, execWbBlank, need_of hc]
    exact endRecord_lands (hm.congr rfl rfl rfl rfl rfl) rfl ht
  | wbRec l =>
    have h := openRecord_inRecord hm ht c l
    rw [exec, execWbRec, need_of hc]
    exact h.mid.goto h.ready
  | wbLrec l => exact execWbLrec_lands hm hc ht l
  | _ => cases hi

/-- A lead lands in a record that is under way (R141 to R143). -/
theorem lead_lands {i : Instr} (hi : i.place = .lead) (h : s.InRecord c r tb) : Lands .wb2 (exec i s) := by
  cases i with
  | wbLcmt text =>
    rw [exec, execWbLcmt]
    split
    · exact endAtRend_lands (h.emitted _ s.pend s.lbl)
    · exact endAtRend_lands (h.emitted _ s.pend s.lbl)
  | wbLmn m =>
    rw [exec, execWbLmn, need_of h.cur, need_of h.rend]
    refine scanLoop_lands (c := c + 1) (r := r) (tb := tb) ?_
    split
    · exact (h.withCur _).emitted _ s.pend s.lbl
    · exact (h.withCur _).emitted _ s.pend s.lbl
  | wbLunl b =>
    rw [exec, execWbLunl]
    split
    · rw [need_of h.cur]; exact h.mid.refuse _
    · exact endAtRend_lands (h.emitted _ s.pend s.lbl)
  | _ => cases hi

/-- An operand lands in a record that is under way (R144 to R152). -/
theorem operand_lands {i : Instr} (hi : i.place = .operand) (h : s.InRecord c r tb) : Lands .wb2 (exec i s) := by
  cases i with
  | wbCmt text =>
    rw [exec, execWbCmt]
    split
    · exact endAtRend_lands (h.emitted _ false s.lbl)
    · exact endAtRend_lands (h.emitted _ false s.lbl)
  | wbOp => exact scanFrom_lands (h.emitted _ false s.lbl) _
  | wbStr | wbNumd | wbNumh | wbNumb | wbLogic | wbCond | wbReg => exact scanFrom_lands (h.emitted _ true s.lbl) _
  | wbLref idx =>
    rw [exec, execWbLref, need_of h.tbl]
    split
    · exact h.mid.raise _ _
    · exact scanFrom_lands (h.emitted _ true s.lbl) _
  | wbTunl b =>
    rw [exec, execWbTunl]
    split
    · rw [need_of h.cur]; exact h.mid.refuse _
    · exact scanFrom_lands (h.emitted _ s.pend s.lbl) _
  | _ => cases hi

end

end Sys2Proof.Machine
end

section
/-! Every step of an invocation answers a next state that meets the invariant. -/

namespace Sys2Proof.Machine

theorem State.Ready.exists_op {s : State} (hr : s.Ready) (hpt : s.pt ≠ .dispatch) : ∃ o, s.op = some o := by
  unfold State.Ready at hr
  split at hr
  next h => exact absurd h hpt
  next => exact hr.imp' .screen fun _ h => h
  next => obtain ⟨f, _, _, hs, _⟩ := hr; exact ⟨_, hs.op⟩
  next => obtain ⟨f, _, _, hs, _⟩ := hr; exact ⟨_, hs.op⟩
  next => obtain ⟨f, _, _, hs, _⟩ := hr; exact ⟨_, hs.op⟩
  next => obtain ⟨f, _, _, hs, _⟩ := hr; exact ⟨_, hs.op⟩
  next => obtain ⟨⟨f, _, _, hs, _⟩, _⟩ := hr; exact ⟨_, hs.op⟩
  next => exact ⟨_, hr⟩
  next => exact ⟨_, hr.1⟩
  next => exact ⟨_, hr⟩
  next => exact ⟨_, hr.1⟩
  next => exact ⟨_, hr.1⟩
  next => exact ⟨_, hr⟩
  next => exact ⟨_, hr⟩
  next => exact ⟨_, hr.1⟩
  next => exact ⟨_, hr.1⟩
  next => exact ⟨_, hr.1⟩
  next => exact ⟨_, hr.1⟩

theorem State.Inv.runs {s : State} (h : s.Inv) (hpt : s.pt ≠ .dispatch) : ∃ o, s.Runs o := by
  obtain ⟨o, hop⟩ := h.place.exists_op hpt
  have hres := h.unwritten hpt
  refine ⟨o, { h with inside := fun _ => ⟨hop, hres⟩, image := fun b hb => ?_, text := fun x hx => ?_ }⟩
  · exact absurd (hres.symm.trans hb) nofun
  · exact absurd (hres.symm.trans hx) nofun

theorem State.Runs.inv {s : State} {o : Operation} (h : s.Runs o) (hd : s.d.wf) (hext : ∀ e, s.cfg.ext = some e → e.wf) :
    s.Inv :=
  { h with input := hd, external := hext, result := fun b hb => (h.image b hb).1, unwritten := fun hpt => (h.inside hpt).2 }

/-- Only S10 has the escape, and it resolves a palette (R85, R99). -/
theorem resolvesPalette_of_escapes {s : State} {f : Screen} (hop : s.op = some (.screen f)) (h : escapes s = true) :
    resolvesPalette f = true := by
  unfold escapes at h
  rw [hop] at h
  cases f with
  | s10 => rfl
  | _ => cases h

/-- Where the registers of a place are written, the bytes there are read: no register of the read is unset (R40), and no
address lies below `BEG` (R43). -/
theorem exists_nextBytes {s : State} (hr : s.Ready) : ∃ bs, nextBytes s = .ok bs := by
  cases hpt : s.pt
  all_goals simp only [State.Ready, hpt] at hr
  case paletteWord src i =>
    obtain ⟨f, beg, last, -, -, hsrc⟩ := hr
    cases src with
    | embedded base => exact ⟨_, by simp only [nextBytes, hpt]; rfl⟩
    | external =>
      obtain ⟨e, he, -⟩ := hsrc
      exact ⟨_, nextBytes_paletteWord_external hpt he⟩
  case nibbles a =>
    obtain ⟨f, beg, last, hs, -, -, ha, -⟩ := hr
    exact ⟨_, by simp only [nextBytes, hpt]; exact screenBytes_of hs.begA ha 1⟩
  case packedRgb a =>
    obtain ⟨f, beg, last, hs, -, -, ha, -⟩ := hr
    exact ⟨_, by simp only [nextBytes, hpt]; exact screenBytes_of hs.begA ha 1⟩
  case group a =>
    obtain ⟨f, beg, last, hs, -, -, ha, -⟩ := hr
    exact ⟨_, by simp only [nextBytes, hpt]; exact screenBytes_of hs.begA ha 4⟩
  case groupPixel a k =>
    obtain ⟨-, hgrp, -, -⟩ := hr
    obtain ⟨g, hg⟩ := Option.isSome_iff_exists.1 hgrp
    exact ⟨_, nextBytes_groupPixel hpt hg⟩
  case basToken =>
    obtain ⟨-, c, hc, -⟩ := hr
    exact ⟨_, nextBytes_basToken hpt hc⟩
  case bcd =>
    obtain ⟨c, hc⟩ := Option.isSome_iff_exists.1 hr.2
    exact ⟨_, nextBytes_bcd hpt hc⟩
  case recordLength =>
    obtain ⟨c, hc⟩ := Option.isSome_iff_exists.1 hr.2.1
    exact ⟨_, nextBytes_recordLength hpt hc⟩
  case labelSlot idx =>
    obtain ⟨-, -, -, htbl⟩ := hr
    obtain ⟨tb, ht⟩ := Option.isSome_iff_exists.1 htbl
    exact ⟨_, nextBytes_labelSlot hpt ht⟩
  case lead | operand =>
    obtain ⟨-, hcur, hrend, -⟩ := hr
    obtain ⟨c, hc⟩ := Option.isSome_iff_exists.1 hcur
    obtain ⟨r, hr⟩ := Option.isSome_iff_exists.1 hrend
    exact ⟨_, by simp only [nextBytes, hpt]; exact recordBytes_of hc hr⟩
  all_goals exact ⟨_, by simp only [nextBytes, hpt]; rfl⟩

/-- A pixel of a group lands, an escape where the format has one (R96, R97, R99). -/
theorem groupPixel_lands {s : State} {o : Operation} {a : Nat} {k : Fin 4} (hpt : s.pt = .groupPixel a k) (hm : s.Mid o)
    (hr : s.Ready) {i : Instr} (hi : SpelledAt (.groupPixel (escapes s)) i) : Lands o (exec i s) := by
  obtain ⟨f, beg, last, hg⟩ := groupSet_of_ready hpt hr
  cases i with
  | yae idx =>
    have hescapes : escapes s = true := by
      obtain h | ⟨h, -⟩ := hi
      · exact (Place.groupPixel.inj h).symm
      · exact Place.groupPixel.inj h
    exact execYae_lands hpt hm hg (resolvesPalette_of_escapes hg.screen.op hescapes)
  | yjk y => exact execYjk_lands hpt hm hg
  | _ => obtain h | ⟨-, h⟩ := hi <;> cases h

/-- At a ready place every instruction of that place answers a next state that meets the invariant. -/
theorem item_lands {s : State} {o : Operation} (hm : s.Mid o) (hr : s.Ready) (hpt : s.pt ≠ .dispatch) {i : Instr}
    (hi : SpelledAt (placeOf s) i) : Lands o (exec i s) := by
  have hop {o' : Operation} (h : s.op = some o') : o = o' := Option.some.inj (hm.op.symm.trans h)
  have hready := hr
  cases hp : s.pt
  all_goals simp only [placeOf, hp] at hi
  all_goals simp only [State.Ready, hp] at hr
  case dispatch => exact absurd hp hpt
  case groupPixel => exact groupPixel_lands hp hm hready hi
  all_goals replace hi := hi.place_eq nofun
  case screenHeader =>
    obtain ⟨f, hf⟩ := hr
    obtain rfl := hop hf
    cases i with
    | scrhdr beg fin => exact execScrhdr_lands hm beg fin
    | _ => cases hi
  case paletteWord =>
    cases i with
    | palword => exact execPalword_lands hp hm hready
    | _ => cases hi
  case nibbles =>
    cases i with
    | nib => exact execNib_lands hp hm hready
    | _ => cases hi
  case packedRgb =>
    cases i with
    | rgb8 => exact execRgb8_lands hp hm hready
    | _ => cases hi
  case group =>
    cases i with
    | yjkgrp => exact execYjkgrp_lands hp hm hready
    | _ => cases hi
  case stampHeader =>
    obtain rfl := hop hr
    cases i with
    | stphdr sw sh => exact execStphdr_lands hm sw sh
    | _ => cases hi
  case stampPair =>
    obtain rfl := hop hr.1
    cases i with
    | stp0 => exact drawStamp_lands hp hm hready 1
    | stp1 => exact drawStamp_lands hp hm hready 0
    | stphi low => exact execStphi_lands hp hm hready low
    | _ => cases hi
  case basSignature =>
    obtain rfl := hop hr
    cases i with
    | basFile => exact startLine_lands (s := s.withCur 1) (hm.congr rfl rfl rfl rfl rfl) rfl
    | _ => cases hi
  case basToken =>
    obtain ⟨hbas, c, hc, -⟩ := hr
    obtain rfl := hop hbas
    exact basToken_lands hi hm hc
  case bcd =>
    obtain ⟨hbas, hcur⟩ := hr
    obtain rfl := hop hbas
    obtain ⟨c, hc⟩ := Option.isSome_iff_exists.1 hcur
    cases i with
    | basBcd => exact emitToken_lands hm hc _ _
    | _ => cases hi
  case wbSignature =>
    obtain rfl := hop hr
    cases i with
    | wbFile => exact hm.goto hr
    | _ => cases hi
  case prepass =>
    obtain rfl := hop hr
    cases i with
    | wbPrepass l => exact execWbPrepass_lands hp hm l
    | _ => cases hi
  case recordLength =>
    obtain ⟨hwb, hcur, htbl⟩ := hr
    obtain rfl := hop hwb
    obtain ⟨c, hc⟩ := Option.isSome_iff_exists.1 hcur
    obtain ⟨tb, ht⟩ := Option.isSome_iff_exists.1 htbl
    exact recordLength_lands hi hm hc ht
  all_goals
    obtain ⟨hwb, hcur, hrend, htbl⟩ := hr
    obtain rfl := hop hwb
    obtain ⟨c, r, tb, h⟩ := inRecord_of_ready hm hcur hrend htbl
  case labelSlot =>
    cases i with
    | wbSlot label => exact scanLoop_lands (h.emitted _ s.pend s.lbl)
    | _ => cases hi
  case lead => exact lead_lands hi h
  case operand => exact operand_lands hi h

/-- A step in the middle of an invocation answers a next state that meets the invariant: an item, or the failure that a
rejected item is. -/
theorem step_lands {s : State} {o : Operation} (h : s.Runs o) (hpt : s.pt ≠ .dispatch) : Lands o (step s) := by
  have hm := h.mid hpt
  obtain ⟨bs, hbs⟩ := exists_nextBytes h.place
  simp only [step, takeItem, hbs]
  split
  next r hdec => exact item_lands hm h.place hpt (decode_spelledAt _ _ r.1 r.2 hdec)
  next r _ =>
    obtain ⟨e, info, hr⟩ := takeReject_eq_raise s r
    exact hr ▸ hm.raise e info

theorem step_keeps_runs {s t : State} {o : Operation} (h : s.Runs o) (hpt : s.pt ≠ .dispatch) (hstep : step s = .next t) :
    t.Runs o := by
  obtain ⟨u, hu, hruns⟩ := step_lands h hpt
  obtain rfl : u = t := Host.Outcome.next.inj (hu.symm.trans hstep)
  exact hruns

/-! ### Whole invocations -/

theorem enter_runs (s : State) (o : Operation) : (s.enter o).Runs o where
  buffer := nofun
  kc := nofun
  jc := nofun
  place := by
    cases o with
    | screen f => exact ⟨f, rfl⟩
    | bas | wb2 | stp => rfl
  inside := fun _ => ⟨rfl, rfl⟩
  image := nofun
  text := nofun

/-- The end of an invocation has a result of its operation's kind, and meets the invariant. -/
theorem runItems_runs {n : Nat} {s t : State} {o : Operation} (h : runItems n (s.enter o) = .next t) : t.Runs o :=
  (runItems_keeps (P := (·.Runs o)) (fun _ _ hu hpt hstep => step_keeps_runs hu hpt hstep) (enter_runs s o) h).1

/-- The failure of an unknown tag leaves the start of an invocation (R156). -/
theorem fresh_raise_inv {s : State} (h : s.Inv) (e : Err) (info : Int) : (s.fresh.raise e info).Inv :=
  { fresh_inv h.input h.external with result := nofun, unwritten := fun hpt => absurd rfl hpt }

/-- Settles O9: in the middle of an invocation every item lands; at dispatch the whole run does, by induction over its items;
and the byte spaces are ports, which no step writes. -/
theorem stepKeepsInvariant : Obligations.StepKeepsInvariant := by
  intro s t hs hstep
  obtain ⟨-, hd, hcfg, -⟩ := step_samePorts hstep
  have hinput : t.d.wf := hd ▸ hs.input
  have hexternal : ∀ e, t.cfg.ext = some e → e.wf := hcfg ▸ hs.external
  by_cases hpt : s.pt = .dispatch
  · rw [step_dispatch hpt] at hstep
    cases htag : s.tag with
    | legal o =>
      rw [htag, exec_legal] at hstep
      exact (runItems_runs hstep).inv hinput hexternal
    | other k =>
      rw [htag, exec_other] at hstep
      cases hstep
      exact fresh_raise_inv hs _ _
  · obtain ⟨o, hruns⟩ := hs.runs hpt
    exact (step_keeps_runs hruns hpt hstep).inv hinput hexternal

/-- Settles O10: the invariant has every register written that the place reads. -/
theorem itemsNeverStop : Obligations.ItemsNeverStop := by
  intro s hs hpt
  obtain ⟨o, hruns⟩ := hs.runs hpt
  obtain ⟨t, ht, -⟩ := step_lands hruns hpt
  exact ⟨t, ht⟩

/-- Settles O18: a run keeps to its operation, whose result has one kind; an unknown tag has no run. -/
theorem resultKindFollowsTag : Obligations.ResultKindFollowsTag := by
  intro s t hpt hstep
  rw [step_dispatch hpt] at hstep
  cases htag : s.tag with
  | legal o =>
    rw [htag, exec_legal] at hstep
    have hruns := runItems_runs hstep
    refine ⟨fun x hx => ?_, fun b hb => ?_, nofun⟩
    · exact (hruns.text x hx).imp (congrArg Tag.legal) (congrArg Tag.legal)
    · exact (hruns.image b hb).2.imp (congrArg Tag.legal) (Exists.imp fun _ => congrArg Tag.legal)
  | other k =>
    rw [htag, exec_other] at hstep
    cases hstep
    refine ⟨nofun, nofun, fun j hj => ?_⟩
    cases hj
    rfl

end Sys2Proof.Machine
end

section
/-! Which failure a rejected item is: one equation for each reason of the decoder, with the place where the failure depends on
it (R49, R86, R105, R109, R134, R135, R148, R149, R155). -/

namespace Sys2Proof.Machine

/-- What the machine's `raise` leaves is the failed end in which the statements speak (R157). -/
theorem raise_eq_failed (s : State) (e : Err) (info : Int) : s.raise e info = s.failed e info := rfl

theorem takeItem_of_reject (run : Instr → State → Out) {s : State} {bs : List Byte} {e : Reject} (hbytes : nextBytes s = .ok bs)
    (hdec : decode (placeOf s) bs = .error e) : takeItem run s = .next (takeReject s e) := by
  simp only [takeItem, hbytes, hdec]

theorem takeReject_shortHeader (s : State) : takeReject s .shortHeader = s.failed .malformedHeader s.d.size := rfl

theorem takeReject_badSignature (s : State) (b : Byte) :
    takeReject s (.badSignature b) = s.failed .invalidSignature b.toNat := rfl

theorem takeReject_noLengthByte {s : State} {p : Nat} (hpt : s.pt = .prepass p) :
    takeReject s .noLengthByte = s.failed .corruptLabelTable p := by
  simp only [takeReject, hpt, raise_eq_failed]

theorem takeReject_truncated_operand {s : State} {cur : Nat} (hpt : s.pt = .operand) (hcur : s.cur = some cur) :
    takeReject s .truncated = s.failed .truncatedPayload cur := by
  simp only [takeReject, hpt, hcur, raise_eq_failed]

/-- Outside a record a cut-off item is a read outside `D`, whose `info` is a free value (R49, log 8). -/
theorem takeReject_truncated_elsewhere {s : State} (hpt : s.pt ≠ .operand) :
    takeReject s .truncated = s.failed .truncatedPayload (Config.memReadInfo s.d (s.cur.getD 0)) := by
  simp only [takeReject]
  split
  next hoperand _ => exact absurd hoperand hpt
  next => rfl

/-- Settles O13: the step takes the rejection, and each clause is the equation of its reason. -/
theorem stepTakesTheFailureOfARejectedItem : Obligations.StepTakesTheFailureOfARejectedItem := by
  intro s bs e hbytes hdec
  have hstep : step s = .next (takeReject s e) := takeItem_of_reject exec hbytes hdec
  rw [hstep]
  refine ⟨?short, ?signature, ?prepass, ?operand, ?elsewhere⟩
  case short =>
    rintro rfl
    rw [takeReject_shortHeader]
  case signature =>
    rintro b rfl
    rw [takeReject_badSignature]
  case prepass =>
    rintro p hpt rfl
    rw [takeReject_noLengthByte hpt]
  case operand =>
    rintro cur hpt hcur rfl
    rw [takeReject_truncated_operand hpt hcur]
  case elsewhere =>
    rintro hpt rfl
    exact ⟨_, congrArg Host.Outcome.next (takeReject_truncated_elsewhere hpt)⟩

end Sys2Proof.Machine
end

section
/-! Bit fields read back from the bytes they are written into (R44, R57 to R61, R66). -/

namespace Sys2Proof

theorem extractLsb'_append_middle {u v w : Nat} (a : BitVec u) (b : BitVec v) (c : BitVec w) :
    (a ++ b ++ c).extractLsb' w v = b := by
  rw [BitVec.extractLsb'_append_eq_of_le (Nat.le_refl w), Nat.sub_self, BitVec.extractLsb'_append_eq_right]

/-- Two bytes read least significant first are the 16-bit field they were written from (R44). -/
theorem le16_le16Bytes (v : Word16) : le16 (v.extractLsb' 0 8) (v.extractLsb' 8 8) = v :=
  (BitVec.extractLsb'_append_extractLsb'_eq_extractLsb' rfl).trans BitVec.extractLsb'_eq_self

theorem decodePaletteWord_paletteWordOf (r g b : BitVec 3) : decodePaletteWord (paletteWordOf r g b) = .palword r g b := by
  have hr : (paletteWordOf r g b).extractLsb' 4 3 = r :=
    (BitVec.extractLsb'_append_eq_of_le (by decide)).trans (extractLsb'_append_middle _ r _)
  have hg : (paletteWordOf r g b).extractLsb' 8 3 = g :=
    (BitVec.extractLsb'_append_eq_of_le (by decide)).trans <|
      (BitVec.extractLsb'_append_eq_of_le (by decide)).trans <|
      (BitVec.extractLsb'_append_eq_of_le (by decide)).trans (extractLsb'_append_middle _ g _)
  have hb : (paletteWordOf r g b).extractLsb' 0 3 = b := BitVec.extractLsb'_append_eq_right
  rw [decodePaletteWord, hr, hg, hb]

theorem decode_nib (hi lo : BitVec 4) (rest : List Byte) : decode .nibbles ((hi ++ lo) :: rest) = .ok (.nib hi lo, rest) := by
  have hhi : (hi ++ lo : Byte).extractLsb' 4 4 = hi := BitVec.extractLsb'_append_eq_left
  have hlo : (hi ++ lo : Byte).extractLsb' 0 4 = lo := BitVec.extractLsb'_append_eq_right
  rw [decode, hhi, hlo]

theorem decode_rgb8 (g r : BitVec 3) (b : BitVec 2) (rest : List Byte) :
    decode .packedRgb ((g ++ r ++ b) :: rest) = .ok (.rgb8 g r b, rest) := by
  have hg : (g ++ r ++ b : Byte).extractLsb' 5 3 = g :=
    (BitVec.extractLsb'_append_eq_of_le (by decide)).trans BitVec.extractLsb'_append_eq_left
  have hr : (g ++ r ++ b : Byte).extractLsb' 2 3 = r := extractLsb'_append_middle g r b
  have hb : (g ++ r ++ b : Byte).extractLsb' 0 2 = b := BitVec.extractLsb'_append_eq_right
  rw [decode, hg, hr, hb]

theorem decodeGroupPixel_yae (idx : BitVec 4) : decodeGroupPixel true (idx ++ (1 : BitVec 1) ++ (0 : BitVec 3)) = .yae idx := by
  revert idx
  decide

theorem decodeGroupPixel_yjk (y : BitVec 5) : decodeGroupPixel false (y ++ (0 : BitVec 3)) = .yjk y := by
  revert y
  decide

theorem decodeStampPair_stphi (low : BitVec 1) :
    decodeStampPair ((0 : BitVec 6) ++ (1 : BitVec 1) ++ low) = .stphi low := by
  revert low
  decide

theorem decodeLength_rec (l : BitVec 7) (h : (Instr.wbRec l).wf = true) : decodeLength ((0 : BitVec 1) ++ l) = .wbRec l := by
  revert l
  decide

theorem decodeLength_lrec (l : BitVec 7) (h : (Instr.wbLrec l).wf = true) : decodeLength ((1 : BitVec 1) ++ l) = .wbLrec l := by
  revert l
  decide

end Sys2Proof
end

section
/-! Quoted strings and label names: what their readers answer, said once for both directions of the encoding. -/

namespace Sys2Proof

/-! ### Quoted strings (R120, R147) -/

/-- A byte that a quoted string goes on with: it is no quote, and the string's place does not stop at it. -/
def StringByte (stop : Byte → Bool) (c : Byte) : Prop := c ≠ 0x22 ∧ stop c = false

theorem basStr_wf_iff {body : List Byte} {closed : Bool} :
    (Instr.basStr body closed).wf = true ↔ ∀ c ∈ body, StringByte (fun c => c == 0x00) c := by
  simp [Instr.wf, StringByte]

theorem wbStr_wf_iff {body : List Byte} {closed : Bool} :
    (Instr.wbStr body closed).wf = true ↔ ∀ c ∈ body, StringByte (fun _ => false) c := by
  simp [Instr.wf, StringByte]

theorem quoted_cons {stop : Byte → Bool} {c : Byte} (hc : StringByte stop c) (bs : List Byte) :
    quoted stop (c :: bs) = (c :: (quoted stop bs).1, (quoted stop bs).2) := by
  rw [quoted, if_neg hc.1, if_neg (by rw [hc.2]; decide)]

theorem quoted_append {stop : Byte → Bool} {body : List Byte} (hbody : ∀ c ∈ body, StringByte stop c) (tail : List Byte) :
    quoted stop (body ++ tail) = (body ++ (quoted stop tail).1, (quoted stop tail).2) := by
  induction body with
  | nil => rfl
  | cons c body ih =>
    rw [List.forall_mem_cons] at hbody
    rw [List.cons_append, quoted_cons hbody.1, ih hbody.2, List.cons_append]

/-- A string is read back from its bytes: up to its closing quote, or where the string ends without one. -/
theorem quoted_quotedBytes {stop : Byte → Bool} {body : List Byte} {closed : Bool} {rest : List Byte}
    (hbody : ∀ c ∈ body, StringByte stop c) (hopen : closed = false → quoted stop rest = ([], false, rest)) :
    quoted stop (quotedBytes body closed ++ rest) = (body, closed, rest) := by
  rw [quotedBytes, List.append_assoc, quoted_append hbody]
  cases closed with
  | true => simp [quoted]
  | false => simp [hopen]

/-- What is read of a string and what is left are the bytes there were. -/
theorem quotedBytes_quoted (stop : Byte → Bool) (bs : List Byte) :
    quotedBytes (quoted stop bs).1 (quoted stop bs).2.1 ++ (quoted stop bs).2.2 = bs := by
  induction bs with
  | nil => rfl
  | cons c rest ih =>
    rw [quoted]
    split
    next hquote => simp [quotedBytes, hquote]
    next =>
      split
      · simp [quotedBytes]
      · simpa [quotedBytes] using ih

theorem stringByte_of_mem_quoted (stop : Byte → Bool) (bs : List Byte) : ∀ c ∈ (quoted stop bs).1, StringByte stop c := by
  induction bs with
  | nil => exact nofun
  | cons c rest ih =>
    rw [quoted]
    split
    · exact nofun
    next hquote =>
      split
      · exact nofun
      next hstop => exact List.forall_mem_cons.2 ⟨⟨hquote, by simpa using hstop⟩, ih⟩

/-! ### Label names (R69, R139) -/

/-- `name` is the longest run of at most `k` characters that are not zero, where `at? j` is the byte at offset `j` of the
slot, and a byte that must be read is there. -/
def NamedBy (at? : Nat → Option Byte) (k : Nat) (name : List (BitVec 7)) : Prop :=
  name.length ≤ k ∧
  (∀ (j : Nat) (c : BitVec 7), name[j]? = some c → c ≠ 0 ∧ ∃ b, at? j = some b ∧ c = b.setWidth 7) ∧
  (name.length < k → ∃ b, at? name.length = some b ∧ b.setWidth 7 = (0 : BitVec 7))

theorem namedBy_zero_iff {at? : Nat → Option Byte} {name : List (BitVec 7)} : NamedBy at? 0 name ↔ name = [] := by
  constructor
  · rintro ⟨hlen, -, -⟩
    exact List.eq_nil_of_length_eq_zero (Nat.le_zero.1 hlen)
  · rintro rfl
    exact ⟨Nat.le_refl 0, nofun, nofun⟩

theorem namedBy_nil_iff {at? : Nat → Option Byte} {k : Nat} :
    NamedBy at? (k + 1) [] ↔ ∃ b, at? 0 = some b ∧ b.setWidth 7 = (0 : BitVec 7) :=
  ⟨fun ⟨_, _, hend⟩ => hend k.succ_pos, fun hend => ⟨Nat.zero_le _, nofun, fun _ => hend⟩⟩

theorem namedBy_cons_iff {at? : Nat → Option Byte} {k : Nat} {c : BitVec 7} {name : List (BitVec 7)} :
    NamedBy at? (k + 1) (c :: name) ↔
      (c ≠ 0 ∧ ∃ b, at? 0 = some b ∧ c = b.setWidth 7) ∧ NamedBy (fun j => at? (j + 1)) k name := by
  constructor
  · rintro ⟨hlen, hchars, hend⟩
    exact ⟨hchars 0 c rfl, Nat.le_of_succ_le_succ hlen, fun j d hd => hchars (j + 1) d hd,
      fun hlt => hend (Nat.succ_lt_succ hlt)⟩
  · rintro ⟨hfirst, hlen, hchars, hend⟩
    refine ⟨Nat.succ_le_succ hlen, fun j d hd => ?_, fun hlt => hend (Nat.lt_of_succ_lt_succ hlt)⟩
    cases j with
    | zero =>
      obtain rfl : c = d := Option.some.inj hd
      exact hfirst
    | succ j => exact hchars j d hd

theorem slotName_cons (k : Nat) (b : Byte) (rest : List Byte) :
    slotName (k + 1) (b :: rest) =
      if b.setWidth 7 = (0 : BitVec 7) then some [] else (slotName k rest).map (b.setWidth 7 :: ·) := by
  simp only [slotName, BitVec.setWidth_eq_extractLsb' (show 7 ≤ 8 by decide)]

/-- `Label` reads the name that the slot's bytes spell, and nothing else. -/
theorem slotName_eq_some_iff {k : Nat} {bs : List Byte} {name : List (BitVec 7)} :
    slotName k bs = some name ↔ NamedBy (fun j => bs[j]?) k name := by
  induction k generalizing bs name with
  | zero => simp [slotName, namedBy_zero_iff, eq_comm]
  | succ k ih =>
    cases bs with
    | nil => cases name <;> simp [slotName, namedBy_nil_iff, namedBy_cons_iff]
    | cons b rest =>
      rw [slotName_cons]
      split
      next hzero =>
        cases name with
        | nil => simp [namedBy_nil_iff, hzero]
        | cons c name => simp +contextual [namedBy_cons_iff, hzero]
      next hchar =>
        cases name with
        | nil => simpa [namedBy_nil_iff] using hchar
        | cons c name =>
          have hfirst : b.setWidth 7 = c ↔ c ≠ 0 ∧ c = b.setWidth 7 :=
            ⟨fun h => ⟨h ▸ hchar, h.symm⟩, fun h => h.2.symm⟩
          simpa [namedBy_cons_iff, ih, and_comm] using fun _ => hfirst

end Sys2Proof

namespace Sys2Proof.Machine

/-- A run of `n` bytes of a memory spells the same names as the memory itself from there on. -/
theorem namedBy_run_iff {m : Memory} {off n : Nat} {name : List (BitVec 7)} :
    NamedBy (fun j => (m.run off n)[j]?) n name ↔ NamedBy (fun j => m.read (off + j)) n name := by
  induction n generalizing off name with
  | zero => simp only [namedBy_zero_iff]
  | succ n ih =>
    cases hread : m.read off with
    | none =>
      rw [run_succ_of_none n hread]
      cases name <;> simp [namedBy_nil_iff, namedBy_cons_iff, hread]
    | some b =>
      rw [run_succ_of_read n hread]
      cases name with
      | nil => simp [namedBy_nil_iff, hread]
      | cons c name => simp [namedBy_cons_iff, hread, ih, Nat.add_assoc, Nat.add_comm 1]

/-- Settles O34: `NamedBy` at the six offsets of the slot is the statement. -/
theorem labelReadsMaskedName : Obligations.LabelReadsMaskedName := by
  intro d tbl idx name
  rw [labelName, slotName_eq_some_iff, namedBy_run_iff]
  rfl

end Sys2Proof.Machine
end

section
/-! The token classes of R63: which bytes each of them takes, whatever follows. -/

namespace Sys2Proof

/-! ### Tokens of one byte -/

/-- The first bytes of the literals, the extended keywords and the strings: their tokens have more bytes. -/
def beginsLongToken (b : Byte) : Bool := b == 0x0E || b == 0x1C || b == 0x0F || b == 0x1D || b == 0xFF || b == 0x22

/-- The token of one byte that a byte spells where it begins no longer one. -/
def oneByteToken (b : Byte) : Instr :=
  if b = 0x00 then .basEol
  else if 0x80 ≤ b.toNat then .basPrim b
  else if 0x20 ≤ b.toNat ∧ b.toNat ≤ 0x7E then .basChr b
  else if 0x11 ≤ b.toNat ∧ b.toNat ≤ 0x1A then .basDig (BitVec.ofNat 4 (b.toNat - 0x11))
  else .basUnl b

/-- A byte that begins neither a longer token nor an elision (R116, R117) is a token whatever follows it. -/
theorem decode_oneByteToken {b : Byte} {rest : List Byte} (hb : beginsLongToken b = false)
    (hcolon : b = 0x3A → rest.head? ≠ some 0x8F ∧ rest.head? ≠ some 0xA1) :
    decode .basToken (b :: rest) = .ok (oneByteToken b, rest) := by
  simp only [beginsLongToken, Bool.or_eq_false_iff, beq_eq_false_iff_ne] at hb
  obtain ⟨⟨⟨⟨⟨h0E, h1C⟩, h0F⟩, h1D⟩, hFF⟩, h22⟩ := hb
  have hcolrem : ¬ (b = 0x3A ∧ rest.head? = some 0x8F) := fun h => (hcolon h.1).1 h.2
  have hcolelse : ¬ (b = 0x3A ∧ rest.head? = some 0xA1) := fun h => (hcolon h.1).2 h.2
  simp only [decode, decodeBasToken, h0E, h1C, h0F, h1D, hFF, h22, or_self, if_false, if_neg hcolrem, if_neg hcolelse,
    oneByteToken, apply_ite (fun i => (Except.ok (i, rest) : Except Reject _))]

theorem oneByteToken_wf : ∀ b : Byte, beginsLongToken b = false → (oneByteToken b).wf = true := by decide

theorem oneByteToken_of_prim : ∀ b : Byte, (Instr.basPrim b).wf = true →
    beginsLongToken b = false ∧ b ≠ 0x3A ∧ oneByteToken b = .basPrim b := by decide

theorem oneByteToken_of_chr : ∀ b : Byte, (Instr.basChr b).wf = true →
    beginsLongToken b = false ∧ oneByteToken b = .basChr b := by decide

theorem oneByteToken_of_dig : ∀ d : BitVec 4, (Instr.basDig d).wf = true →
    beginsLongToken (BitVec.ofNat 8 (0x11 + d.toNat)) = false ∧ BitVec.ofNat 8 (0x11 + d.toNat) ≠ 0x3A ∧
      oneByteToken (BitVec.ofNat 8 (0x11 + d.toNat)) = .basDig d := by decide

theorem oneByteToken_of_unl : ∀ b : Byte, (Instr.basUnl b).wf = true →
    beginsLongToken b = false ∧ b ≠ 0x3A ∧ oneByteToken b = .basUnl b := by decide

/-- A byte other than the colon, which alone looks at what follows it. -/
theorem decode_oneByteToken_of_eq {b : Byte} {i : Instr}
    (h : beginsLongToken b = false ∧ b ≠ 0x3A ∧ oneByteToken b = i) (rest : List Byte) :
    decode .basToken (b :: rest) = .ok (i, rest) := by
  obtain ⟨hb, hcolon, rfl⟩ := h
  exact decode_oneByteToken hb fun h => absurd h hcolon

theorem decode_basEol (rest : List Byte) : decode .basToken (0x00 :: rest) = .ok (.basEol, rest) :=
  decode_oneByteToken_of_eq (by decide) rest

theorem decode_basPrim {b : Byte} (hb : (Instr.basPrim b).wf = true) (rest : List Byte) :
    decode .basToken (b :: rest) = .ok (.basPrim b, rest) :=
  decode_oneByteToken_of_eq (oneByteToken_of_prim b hb) rest

theorem decode_basChr {b : Byte} {rest : List Byte} (hb : (Instr.basChr b).wf = true)
    (hcolon : b = 0x3A → rest.head? ≠ some 0x8F ∧ rest.head? ≠ some 0xA1) :
    decode .basToken (b :: rest) = .ok (.basChr b, rest) := by
  obtain ⟨hshort, hchr⟩ := oneByteToken_of_chr b hb
  rw [decode_oneByteToken hshort hcolon, hchr]

theorem decode_basDig {d : BitVec 4} (hd : (Instr.basDig d).wf = true) (rest : List Byte) :
    decode .basToken (BitVec.ofNat 8 (0x11 + d.toNat) :: rest) = .ok (.basDig d, rest) :=
  decode_oneByteToken_of_eq (oneByteToken_of_dig d hd) rest

theorem decode_basUnl {b : Byte} (hb : (Instr.basUnl b).wf = true) (rest : List Byte) :
    decode .basToken (b :: rest) = .ok (.basUnl b, rest) :=
  decode_oneByteToken_of_eq (oneByteToken_of_unl b hb) rest

/-! ### Longer tokens -/

theorem decode_basInt2 (const : Bool) (v : Word16) (rest : List Byte) :
    decode .basToken ((if const then 0x1C else 0x0E) :: (le16Bytes v ++ rest)) = .ok (.basInt2 const v, rest) := by
  have hread : decode .basToken ((if const then 0x1C else 0x0E) :: (le16Bytes v ++ rest)) =
      .ok (.basInt2 const (le16 (v.extractLsb' 0 8) (v.extractLsb' 8 8)), rest) := by cases const <;> rfl
  rw [hread, le16_le16Bytes]

theorem decode_basInt1 (v : Byte) (rest : List Byte) : decode .basToken (0x0F :: v :: rest) = .ok (.basInt1 v, rest) := rfl

theorem decode_basFlt4 (f0 f1 f2 f3 : Byte) (rest : List Byte) :
    decode .basToken (0x1D :: f0 :: f1 :: f2 :: f3 :: rest) = .ok (.basFlt4 f0 f1 f2 f3, rest) := rfl

theorem decode_basColrem (rest : List Byte) : decode .basToken (0x3A :: 0x8F :: rest) = .ok (.basColrem, rest) := rfl

theorem decode_basColelse (rest : List Byte) :
    decode .basToken (0x3A :: 0xA1 :: rest) = .ok (.basColelse, 0xA1 :: rest) := rfl

theorem decode_basExt (e : Byte) (rest : List Byte) : decode .basToken (0xFF :: e :: rest) = .ok (.basExt e, rest) := rfl

theorem decode_quote_basToken (bs : List Byte) :
    decode .basToken (0x22 :: bs) =
      .ok (.basStr (quoted (fun c => c == 0x00) bs).1 (quoted (fun c => c == 0x00) bs).2.1,
        (quoted (fun c => c == 0x00) bs).2.2) := rfl

/-- A string without closing quote ends with the bytes, or before a zero byte (R120). -/
theorem decode_basStr {body : List Byte} {closed : Bool} {rest : List Byte} (hbody : (Instr.basStr body closed).wf = true)
    (hopen : closed = false → rest.head? = none ∨ rest.head? = some 0x00) :
    decode .basToken (0x22 :: (quotedBytes body closed ++ rest)) = .ok (.basStr body closed, rest) := by
  have hread : quoted (fun c => c == 0x00) (quotedBytes body closed ++ rest) = (body, closed, rest) := by
    refine quoted_quotedBytes (basStr_wf_iff.1 hbody) fun hclosed => ?_
    obtain hend | hzero := hopen hclosed
    · rw [List.head?_eq_none_iff.1 hend]
      rfl
    · obtain ⟨tail, rfl⟩ := List.head?_eq_some_iff.1 hzero
      rfl
  rw [decode_quote_basToken, hread]

end Sys2Proof

namespace Sys2Proof.Machine

/-- A token takes its own bytes before whatever it fits. -/
theorem decode_tokenBytes {i : Instr} {rest : List Byte} (h : tokenFits rest.head? i = true) :
    decode .basToken (tokenBytes i ++ rest) = .ok (i, rest) := by
  cases i with
  | basInt2 const v => exact decode_basInt2 const v rest
  | basInt1 v => exact decode_basInt1 v rest
  | basFlt4 f0 f1 f2 f3 => exact decode_basFlt4 f0 f1 f2 f3 rest
  | basColrem => exact decode_basColrem rest
  | basColelse =>
    obtain ⟨tail, rfl⟩ : ∃ tail, rest = 0xA1 :: tail := List.head?_eq_some_iff.1 (eq_of_beq h)
    exact decode_basColelse tail
  | basExt e => exact decode_basExt e rest
  | basPrim b => exact decode_basPrim h rest
  | basStr body closed =>
    have hbytes : tokenBytes (.basStr body closed) = 0x22 :: quotedBytes body closed :=
      List.take_of_length_le (Nat.le_refl _)
    simp only [tokenFits, Bool.and_eq_true, Bool.or_eq_true, beq_iff_eq] at h
    obtain ⟨hbody, hend⟩ := h
    rw [hbytes]
    exact decode_basStr hbody fun hopen => by simpa [hopen] using hend
  | basChr b =>
    simp only [tokenFits, Bool.and_eq_true, Bool.or_eq_true, bne_iff_ne] at h
    obtain ⟨hb, hcolon⟩ := h
    exact decode_basChr hb fun h => hcolon.resolve_left fun hne => hne h
  | basDig d => exact decode_basDig h rest
  | basUnl b => exact decode_basUnl h rest
  | _ => cases h

/-- Settles O3: each clause is the equation of its class. -/
theorem basTokensHaveTheirLength : Obligations.BasTokensHaveTheirLength := by
  refine ⟨fun _ _ h => decode_tokenBytes h, decode_basColrem, decode_basColelse, fun rest hrem helse => ?colon,
    fun body rest hbody => ?string, decode_basEol, fun _ rest h => decode_basUnl h rest⟩
  case colon => exact decode_basChr rfl fun _ => ⟨hrem, helse⟩
  case string =>
    have hwf : (Instr.basStr body false).wf = true := basStr_wf_iff.2 fun c hc => by simpa [StringByte] using hbody c hc
    simpa [quotedBytes] using decode_basStr (rest := 0x00 :: rest) hwf fun _ => .inr rfl

end Sys2Proof.Machine
end

section
/-! The lead and operand classes of R67 and R68: which bytes of a record each of them takes, whatever follows. -/

namespace Sys2Proof

/-! ### Leads -/

theorem decode_wbLcmt (text : List Byte) : decode .lead (0x01 :: text) = .ok (.wbLcmt text, []) := rfl

/-- The item of one byte that a lead byte spells unless it is that of a comment line. -/
def oneByteLead (b : Byte) : Instr := if 0x80 ≤ b.toNat then .wbLmn (b.extractLsb' 0 7) else .wbLunl b

theorem decode_oneByteLead {b : Byte} (hb : b ≠ 0x01) (rest : List Byte) :
    decode .lead (b :: rest) = .ok (oneByteLead b, rest) := by
  simp only [decode, decodeLead, if_neg hb, oneByteLead, apply_ite (fun i => (Except.ok (i, rest) : Except Reject _))]

theorem oneByteLead_wf : ∀ b : Byte, b ≠ 0x01 → (oneByteLead b).wf = true := by decide

theorem oneByteLead_of_lmn : ∀ m : BitVec 7,
    ((1 : BitVec 1) ++ m : Byte) ≠ 0x01 ∧ oneByteLead ((1 : BitVec 1) ++ m) = .wbLmn m := by decide

theorem oneByteLead_of_lunl : ∀ b : Byte, (Instr.wbLunl b).wf = true → b ≠ 0x01 ∧ oneByteLead b = .wbLunl b := by decide

theorem decode_wbLmn (m : BitVec 7) (rest : List Byte) :
    decode .lead (((1 : BitVec 1) ++ m) :: rest) = .ok (.wbLmn m, rest) := by
  obtain ⟨hb, hlmn⟩ := oneByteLead_of_lmn m
  rw [decode_oneByteLead hb, hlmn]

theorem decode_wbLunl {b : Byte} (hwf : (Instr.wbLunl b).wf = true) (rest : List Byte) :
    decode .lead (b :: rest) = .ok (.wbLunl b, rest) := by
  obtain ⟨hb, hlunl⟩ := oneByteLead_of_lunl b hwf
  rw [decode_oneByteLead hb, hlunl]

/-! ### Operands of one byte -/

/-- The first bytes of comments, strings, label references and numbers: their operands have more bytes. -/
def beginsLongOperand (b : Byte) : Bool := b == 0x01 || b == 0x22 || b == 0xC0 || b == 0xE0 || b == 0xE1 || b == 0xE2

/-- The operand of one byte that a byte spells where it begins no longer one. -/
def oneByteOperand (b : Byte) : Instr :=
  if 0x02 ≤ b.toNat ∧ b.toNat ≤ 0x1B then .wbOp b
  else if 0x99 ≤ b.toNat then .wbLogic b
  else if 0x90 ≤ b.toNat then .wbCond b
  else if 0x80 ≤ b.toNat then .wbReg (b.extractLsb' 0 4)
  else .wbTunl b

theorem decode_oneByteOperand {b : Byte} (hb : beginsLongOperand b = false) (rest : List Byte) :
    decode .operand (b :: rest) = .ok (oneByteOperand b, rest) := by
  simp only [beginsLongOperand, Bool.or_eq_false_iff, beq_eq_false_iff_ne] at hb
  obtain ⟨⟨⟨⟨⟨h01, h22⟩, hC0⟩, hE0⟩, hE1⟩, hE2⟩ := hb
  simp only [decode, decodeOperand, h01, h22, hC0, hE0, hE1, hE2, if_false, oneByteOperand,
    apply_ite (fun i => (Except.ok (i, rest) : Except Reject _))]

theorem oneByteOperand_wf : ∀ b : Byte, beginsLongOperand b = false → (oneByteOperand b).wf = true := by decide

theorem oneByteOperand_of_op : ∀ b : Byte, (Instr.wbOp b).wf = true →
    beginsLongOperand b = false ∧ oneByteOperand b = .wbOp b := by decide

theorem oneByteOperand_of_logic : ∀ b : Byte, (Instr.wbLogic b).wf = true →
    beginsLongOperand b = false ∧ oneByteOperand b = .wbLogic b := by decide

theorem oneByteOperand_of_cond : ∀ b : Byte, (Instr.wbCond b).wf = true →
    beginsLongOperand b = false ∧ oneByteOperand b = .wbCond b := by decide

theorem oneByteOperand_of_reg : ∀ r : BitVec 4,
    beginsLongOperand ((8 : BitVec 4) ++ r) = false ∧ oneByteOperand ((8 : BitVec 4) ++ r) = .wbReg r := by decide

theorem oneByteOperand_of_tunl : ∀ b : Byte, (Instr.wbTunl b).wf = true →
    beginsLongOperand b = false ∧ oneByteOperand b = .wbTunl b := by decide

theorem decode_oneByteOperand_of_eq {b : Byte} {i : Instr} (h : beginsLongOperand b = false ∧ oneByteOperand b = i)
    (rest : List Byte) : decode .operand (b :: rest) = .ok (i, rest) := by
  obtain ⟨hb, rfl⟩ := h
  exact decode_oneByteOperand hb rest

theorem decode_wbTunl {b : Byte} (hwf : (Instr.wbTunl b).wf = true) (rest : List Byte) :
    decode .operand (b :: rest) = .ok (.wbTunl b, rest) :=
  decode_oneByteOperand_of_eq (oneByteOperand_of_tunl b hwf) rest

/-! ### Longer operands -/

theorem decode_wbCmt (text : List Byte) : decode .operand (0x01 :: text) = .ok (.wbCmt text, []) := rfl

theorem decode_quote_operand (bs : List Byte) :
    decode .operand (0x22 :: bs) =
      .ok (.wbStr (quoted (fun _ => false) bs).1 (quoted (fun _ => false) bs).2.1, (quoted (fun _ => false) bs).2.2) := rfl

/-- A string without closing quote ends with the record (R147). -/
theorem decode_wbStr {body : List Byte} {closed : Bool} {rest : List Byte} (hbody : (Instr.wbStr body closed).wf = true)
    (hopen : closed = false → rest = []) :
    decode .operand (0x22 :: (quotedBytes body closed ++ rest)) = .ok (.wbStr body closed, rest) := by
  have hread : quoted (fun _ => false) (quotedBytes body closed ++ rest) = (body, closed, rest) := by
    refine quoted_quotedBytes (wbStr_wf_iff.1 hbody) fun hclosed => ?_
    rw [hopen hclosed]
    rfl
  rw [decode_quote_operand, hread]

/-- The four operand bytes that a 16-bit field follows (R148, R149). -/
theorem decode_operand16 {b : Byte} (hb : b = 0xC0 ∨ b = 0xE0 ∨ b = 0xE1 ∨ b = 0xE2) :
    ∃ f : Word16 → Instr, (∀ v, (f v).wf = true) ∧ ∀ bs, decode .operand (b :: bs) = decodeOperand16 f bs := by
  obtain rfl | rfl | rfl | rfl := hb
  · exact ⟨.wbLref, fun _ => rfl, fun _ => rfl⟩
  · exact ⟨.wbNumd, fun _ => rfl, fun _ => rfl⟩
  · exact ⟨.wbNumh, fun _ => rfl, fun _ => rfl⟩
  · exact ⟨.wbNumb, fun _ => rfl, fun _ => rfl⟩

theorem decodeOperand16_le16Bytes (f : Word16 → Instr) (v : Word16) (rest : List Byte) :
    decodeOperand16 f (le16Bytes v ++ rest) = .ok (f v, rest) := by
  have hread : decodeOperand16 f (le16Bytes v ++ rest) = .ok (f (le16 (v.extractLsb' 0 8) (v.extractLsb' 8 8)), rest) := rfl
  rw [hread, le16_le16Bytes]

end Sys2Proof

namespace Sys2Proof.Machine

/-- An operand takes its own bytes before whatever it fits. -/
theorem decode_operandFits {i : Instr} {rest : List Byte} (h : operandFits rest.isEmpty i = true) :
    decode .operand (encode i ++ rest) = .ok (i, rest) := by
  cases i with
  | wbOp b => exact decode_oneByteOperand_of_eq (oneByteOperand_of_op b h) rest
  | wbStr body closed =>
    simp only [operandFits, Bool.and_eq_true, Bool.or_eq_true, List.isEmpty_iff] at h
    obtain ⟨hbody, hend⟩ := h
    exact decode_wbStr hbody fun hopen => hend.resolve_left (by simp [hopen])
  | wbLref v | wbNumd v | wbNumh v | wbNumb v => exact decodeOperand16_le16Bytes _ v rest
  | wbLogic b => exact decode_oneByteOperand_of_eq (oneByteOperand_of_logic b h) rest
  | wbCond b => exact decode_oneByteOperand_of_eq (oneByteOperand_of_cond b h) rest
  | wbReg r => exact decode_oneByteOperand_of_eq (oneByteOperand_of_reg r) rest
  | _ => cases h

/-- Settles O4: each clause is the equation of its class. -/
theorem operandsHaveTheirLength : Obligations.OperandsHaveTheirLength :=
  ⟨fun _ _ h => decode_operandFits h, decode_wbCmt, fun _ rest h => decode_wbTunl h rest, decode_wbLcmt, decode_wbLmn,
    fun _ rest h => decode_wbLunl h rest⟩

end Sys2Proof.Machine
end

section
/-! Decoding undoes encoding, place by place (R55 to R69). -/

namespace Sys2Proof

/-! ### Fields of 16 bits and label slots -/

theorem decode_palword (r g b : BitVec 3) (rest : List Byte) :
    decode .paletteWord (le16Bytes (paletteWordOf r g b) ++ rest) = .ok (.palword r g b, rest) := by
  change Except.ok (decodePaletteWord (le16 _ _), rest) = _
  rw [le16_le16Bytes, decodePaletteWord_paletteWordOf]

theorem decode_stphdr (sw sh : Word16) (rest : List Byte) :
    decode .stampHeader (le16Bytes sw ++ (le16Bytes sh ++ rest)) = .ok (.stphdr sw sh, rest) := by
  change Except.ok (Instr.stphdr (le16 _ _) (le16 _ _), rest) = _
  rw [le16_le16Bytes, le16_le16Bytes]

theorem decode_scrhdr (beg fin : Word16) (rest : List Byte) :
    decode .screenHeader (0x00 :: (le16Bytes beg ++ (le16Bytes fin ++ 0x00 :: 0x00 :: rest))) = .ok (.scrhdr beg fin, rest) := by
  change Except.ok (Instr.scrhdr (le16 _ _) (le16 _ _), rest) = _
  rw [le16_le16Bytes, le16_le16Bytes]

theorem encode_wbSlot_length {name : List (BitVec 7)} (h : name.length ≤ 6) : (encode (.wbSlot name)).length = 8 := by
  simp only [encode, List.length_append, List.length_map, List.length_replicate]
  omega

theorem encode_wbSlot_getElem?_char {name : List (BitVec 7)} {j : Nat} {c : BitVec 7} (hc : name[j]? = some c) :
    (encode (.wbSlot name))[j]? = some ((0 : BitVec 1) ++ c) := by
  have hj : j < name.length := (List.getElem?_eq_some_iff.1 hc).1
  rw [encode, List.getElem?_append_left (by rwa [List.length_map]), List.getElem?_map, hc, Option.map_some]

theorem encode_wbSlot_getElem?_length {name : List (BitVec 7)} (h : name.length ≤ 6) :
    (encode (.wbSlot name))[name.length]? = some 0x00 := by
  rw [encode, List.getElem?_append_right (by rw [List.length_map]), List.length_map, Nat.sub_self,
    List.getElem?_replicate, if_pos (by omega)]

/-- The bytes of a slot spell its name: its characters, then at least two zeros. -/
theorem namedBy_encode_wbSlot {name : List (BitVec 7)} (h : (Instr.wbSlot name).wf = true) :
    NamedBy (fun j => (encode (.wbSlot name))[j]?) 6 name := by
  simp only [Instr.wf, Bool.and_eq_true, decide_eq_true_eq, List.all_eq_true, bne_iff_ne] at h
  obtain ⟨hlen, hchars⟩ := h
  have hmask (c : BitVec 7) : c = ((0 : BitVec 1) ++ c : Byte).setWidth 7 :=
    ((BitVec.setWidth_eq_extractLsb' (by decide)).trans BitVec.extractLsb'_append_eq_right).symm
  exact ⟨hlen,
    fun j c hc => ⟨hchars c (List.mem_of_getElem? hc), _, encode_wbSlot_getElem?_char hc, hmask c⟩,
    fun _ => ⟨0x00, encode_wbSlot_getElem?_length hlen, rfl⟩⟩

theorem decode_wbSlot {name : List (BitVec 7)} (h : (Instr.wbSlot name).wf = true) :
    decode .labelSlot (encode (.wbSlot name)) = .ok (.wbSlot name, []) := by
  have hlen : name.length ≤ 6 := (namedBy_encode_wbSlot h).1
  simp only [decode, slotName_eq_some_iff.2 (namedBy_encode_wbSlot h),
    List.drop_eq_nil_of_le (Nat.le_of_eq (encode_wbSlot_length hlen))]

end Sys2Proof

namespace Sys2Proof.Machine

/-! ### Tokens and operands on their own -/

/-- A well-formed token fits what its own encoding has behind it. -/
theorem decode_basToken_encode {i : Instr} (hfits : tokenFits i.leaves.head? i = true) :
    decode .basToken (encode i) = .ok (i, i.leaves) := by
  have hbytes : tokenBytes i ++ i.leaves = encode i := by
    cases i with
    | basColelse => rfl
    | _ => exact (List.append_nil _).trans (List.take_of_length_le (Nat.le_refl _))
  rw [← hbytes]
  exact decode_tokenBytes hfits

theorem decode_operand_encode {i : Instr} (hfits : operandFits true i = true) :
    decode .operand (encode i) = .ok (i, []) := by
  have hread := decode_operandFits (rest := []) hfits
  rwa [List.append_nil] at hread

/-- Settles O1, by the constructors of the instruction: the tokens and operands by O3's and O4's first clauses. -/
theorem decodeUndoesEncode : Obligations.DecodeUndoesEncode := by
  intro i hwf
  cases i with
  | sc5 | sc7 | sc8 | s10 | s12 | bas | wb2 | stp | unknown n => rfl
  | palword r g b => exact decode_palword r g b []
  | nib hi lo => exact decode_nib hi lo []
  | rgb8 g r b => exact decode_rgb8 g r b []
  | yjkgrp g0 g1 g2 g3 => rfl
  | yae idx => exact congrArg (fun j => Except.ok (j, [])) (decodeGroupPixel_yae idx)
  | yjk y => exact congrArg (fun j => Except.ok (j, [])) (decodeGroupPixel_yjk y)
  | stphdr sw sh => exact decode_stphdr sw sh []
  | stp0 | stp1 => rfl
  | stphi low => exact congrArg (fun j => Except.ok (j, [])) (decodeStampPair_stphi low)
  | scrhdr beg fin => exact decode_scrhdr beg fin []
  | basEol => exact decode_basEol []
  | basInt2 | basInt1 | basFlt4 | basColrem | basColelse | basExt => exact decode_basToken_encode rfl
  | basPrim | basDig | basUnl => exact decode_basToken_encode hwf
  | basStr body closed => exact decode_basToken_encode (by simp [tokenFits, hwf, Instr.leaves])
  | basChr b => exact decode_basToken_encode (by simp [tokenFits, hwf, Instr.leaves])
  | basBcd f0 f1 f2 f3 => rfl
  | basFile | wbFile | wbPrepass l | wbEnd | wbBlank => rfl
  | wbRec l => exact congrArg (fun j => Except.ok (j, [])) (decodeLength_rec l hwf)
  | wbLrec l => exact congrArg (fun j => Except.ok (j, [])) (decodeLength_lrec l hwf)
  | wbSlot name => exact decode_wbSlot hwf
  | wbLcmt text => exact decode_wbLcmt text
  | wbLmn m => exact decode_wbLmn m []
  | wbLunl b => exact decode_wbLunl hwf []
  | wbCmt text => exact decode_wbCmt text
  | wbOp | wbLogic | wbCond => exact decode_operand_encode hwf
  | wbStr body closed => exact decode_operand_encode (by simp [operandFits, hwf])
  | wbLref | wbNumd | wbNumh | wbNumb | wbReg => exact decode_operand_encode rfl
  | wbTunl b => exact decode_wbTunl hwf []

end Sys2Proof.Machine
end

section
/-! What the decoder answers on any bytes: well-formed items with at least one byte, and rejections of cut-off items alone. -/

namespace Sys2Proof

/-! ### How the bytes of a token and of an operand begin -/

/-- A token is a literal or an extended keyword, a string, an elision of a colon, or the one byte. -/
theorem basToken_cases (b : Byte) (rest : List Byte) :
    (b = 0x0E ∨ b = 0x1C) ∨ b = 0x0F ∨ b = 0x1D ∨ b = 0xFF ∨ b = 0x22 ∨
      (b = 0x3A ∧ ∃ tail, rest = 0x8F :: tail) ∨ (b = 0x3A ∧ ∃ tail, rest = 0xA1 :: tail) ∨
      (beginsLongToken b = false ∧ decode .basToken (b :: rest) = .ok (oneByteToken b, rest)) := by
  by_cases hlong : beginsLongToken b = true
  · simp only [beginsLongToken, Bool.or_eq_true, beq_iff_eq] at hlong
    tauto
  · rw [Bool.not_eq_true] at hlong
    have hshort := decode_oneByteToken (rest := rest) hlong
    simp only [← List.head?_eq_some_iff]
    tauto

/-- An operand is a comment, a string, has a 16-bit field, or is the one byte. -/
theorem operand_cases (b : Byte) :
    b = 0x01 ∨ b = 0x22 ∨ (b = 0xC0 ∨ b = 0xE0 ∨ b = 0xE1 ∨ b = 0xE2) ∨ beginsLongOperand b = false := by
  by_cases hlong : beginsLongOperand b = true
  · simp only [beginsLongOperand, Bool.or_eq_true, beq_iff_eq] at hlong
    tauto
  · rw [Bool.not_eq_true] at hlong
    tauto

/-! ### Cut-off items -/

/-- The bytes spell no item. -/
def Rejected (r : Except Reject (Instr × List Byte)) : Prop := ∃ e, r = .error e

@[simp] theorem rejected_error (e : Reject) : Rejected (.error e) := ⟨e, rfl⟩

@[simp] theorem not_rejected_ok (p : Instr × List Byte) : ¬ Rejected (.ok p) := nofun

theorem rejected_operand16_iff {f : Word16 → Instr} {rest : List Byte} :
    Rejected (decodeOperand16 f rest) ↔ rest.length < 2 := by
  obtain _ | ⟨lo, _ | ⟨hi, tail⟩⟩ := rest <;> simp [decodeOperand16]

theorem rejected_basInt2_iff {b : Byte} (hb : b = 0x0E ∨ b = 0x1C) {rest : List Byte} :
    Rejected (decode .basToken (b :: rest)) ↔ rest.length < 2 := by
  obtain rfl | rfl := hb <;> obtain _ | ⟨lo, _ | ⟨hi, tail⟩⟩ := rest <;> simp [decode, decodeBasToken]

theorem rejected_basInt1_iff {rest : List Byte} : Rejected (decode .basToken (0x0F :: rest)) ↔ rest.length < 1 := by
  obtain _ | ⟨v, tail⟩ := rest <;> simp [decode, decodeBasToken]

theorem rejected_basExt_iff {rest : List Byte} : Rejected (decode .basToken (0xFF :: rest)) ↔ rest.length < 1 := by
  obtain _ | ⟨e, tail⟩ := rest <;> simp [decode, decodeBasToken]

theorem rejected_basFlt4_iff {rest : List Byte} : Rejected (decode .basToken (0x1D :: rest)) ↔ rest.length < 4 := by
  obtain _ | ⟨f0, _ | ⟨f1, _ | ⟨f2, _ | ⟨f3, tail⟩⟩⟩⟩ := rest <;> simp [decode, decodeBasToken]

theorem rejected_basToken_iff (b : Byte) (rest : List Byte) :
    Rejected (decode .basToken (b :: rest)) ↔
      ((b = 0x0E ∨ b = 0x1C) ∧ rest.length < 2) ∨ ((b = 0x0F ∨ b = 0xFF) ∧ rest.length < 1) ∨
        (b = 0x1D ∧ rest.length < 4) := by
  obtain hint2 | rfl | rfl | rfl | rfl | ⟨rfl, tail, rfl⟩ | ⟨rfl, tail, rfl⟩ | ⟨hshort, hread⟩ := basToken_cases b rest
  · rw [rejected_basInt2_iff hint2]
    obtain rfl | rfl := hint2 <;> simp
  · rw [rejected_basInt1_iff]
    simp
  · rw [rejected_basFlt4_iff]
    simp
  · rw [rejected_basExt_iff]
    simp
  · exact iff_of_false (not_rejected_ok _) (by simp)
  · exact iff_of_false (not_rejected_ok _) (by simp)
  · exact iff_of_false (not_rejected_ok _) (by simp)
  · rw [hread]
    simp only [beginsLongToken, Bool.or_eq_false_iff, beq_eq_false_iff_ne] at hshort
    exact iff_of_false (not_rejected_ok _) (by tauto)

theorem rejected_operand_iff (b : Byte) (rest : List Byte) :
    Rejected (decode .operand (b :: rest)) ↔
      (b = 0xC0 ∨ b = 0xE0 ∨ b = 0xE1 ∨ b = 0xE2) ∧ rest.length < 2 := by
  obtain rfl | rfl | hfield | hshort := operand_cases b
  · exact iff_of_false (not_rejected_ok _) (by simp)
  · exact iff_of_false (not_rejected_ok _) (by simp)
  · obtain ⟨f, -, hread⟩ := decode_operand16 hfield
    rw [hread, rejected_operand16_iff, and_iff_right hfield]
  · rw [decode_oneByteOperand hshort]
    simp only [beginsLongOperand, Bool.or_eq_false_iff, beq_eq_false_iff_ne] at hshort
    exact iff_of_false (not_rejected_ok _) (by tauto)

/-- Settles O5: `Rejected` is the statement's rejection. -/
theorem onlyCutOffItemsAreRejected : Obligations.OnlyCutOffItemsAreRejected :=
  ⟨rejected_basToken_iff, rejected_operand_iff⟩

/-! ### What is read -/

/-- What is read, if anything is, is well formed and has taken at least the first of the bytes. -/
def WellRead (bs : List Byte) (r : Except Reject (Instr × List Byte)) : Prop :=
  ∀ i rest, r = .ok (i, rest) → i.wf = true ∧ ∃ first more, bs = first :: (more ++ rest)

theorem wellRead_ok {i : Instr} {first : Byte} (more : List Byte) {rest : List Byte} (h : i.wf = true) :
    WellRead (first :: (more ++ rest)) (.ok (i, rest)) := by
  intro j rest' hj
  cases hj
  exact ⟨h, first, more, rfl⟩

theorem wellRead_error {bs : List Byte} {e : Reject} : WellRead bs (.error e) := nofun

theorem decodeTag_wf (t : Tag) : (decodeTag t).wf = true := by
  cases t with
  | other n => rfl
  | legal o =>
    cases o with
    | screen f => cases f <;> rfl
    | bas | wb2 | stp => rfl

theorem decodeGroupPixel_wf (yae : Bool) (g : Byte) : (decodeGroupPixel yae g).wf = true := by
  unfold decodeGroupPixel
  split <;> rfl

theorem decodeStampPair_wf (v : Byte) : (decodeStampPair v).wf = true := by
  unfold decodeStampPair
  split
  · rfl
  · split <;> rfl

theorem decodeLength_wf : ∀ l : Byte, (decodeLength l).wf = true := by decide

theorem wellRead_operand16 {f : Word16 → Instr} (hf : ∀ v, (f v).wf = true) (b : Byte) (rest : List Byte) :
    WellRead (b :: rest) (decodeOperand16 f rest) := by
  unfold decodeOperand16
  split
  next lo hi tail => exact wellRead_ok [lo, hi] (hf _)
  next => exact wellRead_error

/-- A string takes its opening quote, its bytes and its closing quote if there is one. -/
theorem wellRead_quoted {stop : Byte → Bool} {i : Instr} {bs : List Byte} (h : i.wf = true) :
    WellRead (0x22 :: bs) (.ok (i, (quoted stop bs).2.2)) := by
  have hread := wellRead_ok (first := 0x22) (quotedBytes (quoted stop bs).1 (quoted stop bs).2.1)
    (rest := (quoted stop bs).2.2) h
  rwa [quotedBytes_quoted] at hread

theorem wellRead_basToken (b : Byte) (rest : List Byte) : WellRead (b :: rest) (decode .basToken (b :: rest)) := by
  obtain hint2 | rfl | rfl | rfl | rfl | ⟨rfl, tail, rfl⟩ | ⟨rfl, tail, rfl⟩ | ⟨hshort, hread⟩ := basToken_cases b rest
  · obtain rfl | rfl := hint2
    all_goals
      obtain _ | ⟨lo, _ | ⟨hi, tail⟩⟩ := rest
      · exact wellRead_error
      · exact wellRead_error
      · exact wellRead_ok [lo, hi] rfl
  · obtain _ | ⟨v, tail⟩ := rest
    · exact wellRead_error
    · exact wellRead_ok [v] rfl
  · obtain _ | ⟨f0, _ | ⟨f1, _ | ⟨f2, _ | ⟨f3, tail⟩⟩⟩⟩ := rest
    any_goals exact wellRead_error
    exact wellRead_ok [f0, f1, f2, f3] rfl
  · obtain _ | ⟨e, tail⟩ := rest
    · exact wellRead_error
    · exact wellRead_ok [e] rfl
  · exact wellRead_quoted (basStr_wf_iff.2 (stringByte_of_mem_quoted _ _))
  · exact wellRead_ok [0x8F] rfl
  · exact wellRead_ok [] rfl
  · rw [hread]
    exact wellRead_ok [] (oneByteToken_wf b hshort)

theorem wellRead_operand (b : Byte) (rest : List Byte) : WellRead (b :: rest) (decode .operand (b :: rest)) := by
  obtain rfl | rfl | hfield | hshort := operand_cases b
  · have hread := wellRead_ok (i := .wbCmt rest) (first := 0x01) rest (rest := []) rfl
    rwa [List.append_nil] at hread
  · exact wellRead_quoted (wbStr_wf_iff.2 (stringByte_of_mem_quoted _ _))
  · obtain ⟨f, hwf, hread⟩ := decode_operand16 hfield
    rw [hread]
    exact wellRead_operand16 hwf b rest
  · rw [decode_oneByteOperand hshort]
    exact wellRead_ok [] (oneByteOperand_wf b hshort)

theorem wellRead_lead (b : Byte) (rest : List Byte) : WellRead (b :: rest) (decode .lead (b :: rest)) := by
  by_cases hb : b = 0x01
  · subst hb
    have hread := wellRead_ok (i := .wbLcmt rest) (first := 0x01) rest (rest := []) rfl
    rwa [List.append_nil] at hread
  · rw [decode_oneByteLead hb]
    exact wellRead_ok [] (oneByteLead_wf b hb)

theorem wbSlot_wf_of_slotName {bs : List Byte} {name : List (BitVec 7)} (h : slotName 6 bs = some name) :
    (Instr.wbSlot name).wf = true := by
  obtain ⟨hlen, hchars, -⟩ := slotName_eq_some_iff.1 h
  have hne : ∀ c ∈ name, c ≠ 0 := fun c hc => by
    obtain ⟨j, hj⟩ := List.mem_iff_getElem?.1 hc
    exact (hchars j c hj).1
  simpa [Instr.wf, hlen] using hne

theorem wellRead_labelSlot (bs : List Byte) : WellRead bs (decode .labelSlot bs) := by
  simp only [decode]
  split
  next name hname =>
    cases bs with
    | nil => cases hname
    | cons b rest =>
      have hread := wellRead_ok (first := b) (rest.take 7) (rest := rest.drop 7) (wbSlot_wf_of_slotName hname)
      rwa [List.take_append_drop] at hread
  next => exact wellRead_error

theorem decode_wellRead {pl : Place} (hpl : ∀ t, pl ≠ .operation t) (bs : List Byte) : WellRead bs (decode pl bs) := by
  cases bs with
  | nil =>
    cases pl with
    | operation t => exact absurd rfl (hpl t)
    | _ => exact wellRead_error
  | cons b rest =>
    cases pl with
    | operation t => exact absurd rfl (hpl t)
    | screenHeader =>
      obtain _ | ⟨b1, _ | ⟨b2, _ | ⟨b3, _ | ⟨b4, _ | ⟨b5, _ | ⟨b6, tail⟩⟩⟩⟩⟩⟩ := rest
      any_goals exact wellRead_error
      exact wellRead_ok [b1, b2, b3, b4, b5, b6] rfl
    | group | stampHeader | bcd =>
      obtain _ | ⟨b1, _ | ⟨b2, _ | ⟨b3, tail⟩⟩⟩ := rest
      any_goals exact wellRead_error
      exact wellRead_ok [b1, b2, b3] rfl
    | paletteWord =>
      obtain _ | ⟨hi, tail⟩ := rest
      · exact wellRead_error
      · exact wellRead_ok [hi] rfl
    | nibbles | packedRgb | prepassLength => exact wellRead_ok [] rfl
    | groupPixel yae => exact wellRead_ok [] (decodeGroupPixel_wf yae b)
    | stampPair => exact wellRead_ok [] (decodeStampPair_wf b)
    | recordLength => exact wellRead_ok [] (decodeLength_wf b)
    | basSignature | wbSignature =>
      simp only [decode]
      split
      · exact wellRead_ok [] rfl
      · exact wellRead_error
    | basToken => exact wellRead_basToken b rest
    | labelSlot => exact wellRead_labelSlot (b :: rest)
    | lead => exact wellRead_lead b rest
    | operand => exact wellRead_operand b rest

/-- Settles O2: the place by `decode_spelledAt`, the rest by `decode_wellRead`; an operation is read from its tag. -/
theorem decodedInstructionsAreWellFormed : Obligations.DecodedInstructionsAreWellFormed := by
  intro pl bs i rest hdec
  by_cases hop : ∃ t, pl = .operation t
  · obtain ⟨t, rfl⟩ := hop
    cases hdec
    exact ⟨decodeTag_wf t, decode_spelledAt _ bs _ _ rfl, [], rfl, fun _ => ⟨t, rfl⟩⟩
  · obtain ⟨hwf, first, more, hbytes⟩ := decode_wellRead (not_exists.1 hop) bs i rest hdec
    exact ⟨hwf, decode_spelledAt pl bs i rest hdec, first :: more, hbytes, nofun⟩

/-- Settles O6: the decoder evaluated on the words. -/
theorem specWordsDecode : Obligations.SpecWordsDecode :=
  ⟨rfl, rfl, rfl, rfl, rfl, rfl, rfl, rfl, rfl, rfl, rfl, rfl, rfl, rfl, rfl, rfl, rfl⟩

end Sys2Proof
end

section
/-! The scaled pixel buffer: its frame, and what each of its cells holds (R81 to R84). -/

namespace Sys2Proof.Machine

/-- Two buffers agree on everything but the cells: kind, geometry and palette (R30). -/
def Buf.SameFrame (b b' : Buf) : Prop := b'.kind = b.kind ∧ b'.w = b.w ∧ b'.h = b.h ∧ b'.pal = b.pal

theorem Buf.SameFrame.refl (b : Buf) : b.SameFrame b := ⟨rfl, rfl, rfl, rfl⟩

theorem Buf.SameFrame.trans {a b c : Buf} (hab : a.SameFrame b) (hbc : b.SameFrame c) : a.SameFrame c := by
  obtain ⟨hkind, hw, hh, hpal⟩ := hab
  obtain ⟨hkind', hw', hh', hpal'⟩ := hbc
  exact ⟨hkind'.trans hkind, hw'.trans hw, hh'.trans hh, hpal'.trans hpal⟩

theorem sameFrame_write (b : Buf) (x y : Nat) (v : Pixel) : b.SameFrame (b.write x y v) :=
  ⟨write_kind .., write_w .., write_h .., write_pal ..⟩

/-- What keeps the frame in every step of a fold keeps it in the fold. -/
theorem sameFrame_foldl {α : Type} {f : Buf → α → Buf} (hf : ∀ (b : Buf) (a : α), b.SameFrame (f b a))
    (as : List α) (b : Buf) : b.SameFrame (as.foldl f b) := by
  induction as generalizing b with
  | nil => exact .refl b
  | cons a rest ih => exact (hf b a).trans (ih (f b a))

/-! ### One block -/

/-- Writing one value to many cells: each of them holds it, every other cell what it held (R15, R50). -/
theorem read_foldl_write (q : List (Nat × Nat)) (v : Pixel) {b : Buf} (hb : b.wf = true) {x y : Nat}
    (hx : x < b.w) (hy : y < b.h) :
    (q.foldl (fun acc c => acc.write c.1 c.2 v) b).read x y = if (x, y) ∈ q then some v else b.read x y := by
  induction q generalizing b with
  | nil => simp
  | cons c rest ih =>
    obtain ⟨x', y'⟩ := c
    rw [List.foldl_cons, ih (write_wf _ _ _ hb) (by simpa using hx) (by simpa using hy), read_write hb]
    by_cases hc : x = x' ∧ y = y'
    · obtain ⟨rfl, rfl⟩ := hc
      simp [hx, hy]
    · have hin : ¬(x = x' ∧ y = y' ∧ x' < b.w ∧ y' < b.h) := fun h => hc ⟨h.1, h.2.1⟩
      simp [hc, hin]

theorem mem_blockCells {sx sy x y x' y' : Nat} (hsx : 0 < sx) (hsy : 0 < sy) :
    (x', y') ∈ blockCells sx sy x y ↔ x' / sx = x ∧ y' / sy = y := by
  have hdiv {n a b : Nat} (hn : 0 < n) : (∃ d < n, n * a + d = b) ↔ b / n = a := by
    constructor
    · rintro ⟨d, hd, rfl⟩
      rw [Nat.mul_add_div hn, Nat.div_eq_of_lt hd, Nat.add_zero]
    · rintro rfl
      exact ⟨b % n, Nat.mod_lt _ hn, Nat.div_add_mod b n⟩
  rw [← hdiv hsx, ← hdiv hsy]
  simp only [blockCells, List.mem_flatMap, List.mem_map, List.mem_range, Prod.mk.injEq]
  constructor
  · rintro ⟨dy, hdy, dx, hdx, hx', hy'⟩
    exact ⟨⟨dx, hdx, hx'⟩, dy, hdy, hy'⟩
  · rintro ⟨⟨dx, hdx, hx'⟩, dy, hdy, hy'⟩
    exact ⟨dy, hdy, dx, hdx, hx', hy'⟩

/-- One listed cell of a buffer of width `w` fills its block. -/
def fillBlock (sx sy w : Nat) (acc : Buf) (c : Nat × Pixel) : Buf :=
  (blockCells sx sy (c.1 % w) (c.1 / w)).foldl (fun acc' q => acc'.write q.1 q.2 c.2) acc

theorem scale_eq_foldl (sx sy : Nat) (b : Buf) :
    b.scale sx sy = b.cells.foldl (fillBlock sx sy b.w) (Buf.new b.kind (sx * b.w) (sy * b.h) b.pal) := rfl

theorem sameFrame_fillBlock (sx sy w : Nat) (acc : Buf) (c : Nat × Pixel) : acc.SameFrame (fillBlock sx sy w acc c) :=
  sameFrame_foldl (fun b _ => sameFrame_write b _ _ _) _ acc

theorem fillBlock_wf (sx sy w : Nat) {acc : Buf} (h : acc.wf = true) (c : Nat × Pixel) : (fillBlock sx sy w acc c).wf = true :=
  foldl_write_wf _ _ h

/-- A block is filled where the cell of the source is the listed one. -/
theorem read_fillBlock {sx sy w : Nat} (hsx : 0 < sx) (hsy : 0 < sy) {acc : Buf} (hacc : acc.wf = true) (hw : acc.w = sx * w)
    (c : Nat × Pixel) {x y : Nat} (hx : x < acc.w) (hy : y < acc.h) :
    (fillBlock sx sy w acc c).read x y = if y / sy * w + x / sx = c.1 then some c.2 else acc.read x y := by
  have hxw : x / sx < w := Nat.div_lt_of_lt_mul (hw ▸ hx)
  have hcell : (x / sx = c.1 % w ∧ y / sy = c.1 / w) ↔ y / sy * w + x / sx = c.1 := by
    constructor
    · rintro ⟨hx', hy'⟩
      rw [hx', hy', Nat.mul_comm, Nat.div_add_mod]
    · intro h
      refine cell_number_inj hxw (Nat.mod_lt _ (Nat.zero_lt_of_lt hxw)) ?_
      rw [h, Nat.mul_comm, Nat.div_add_mod]
  rw [fillBlock, read_foldl_write _ _ hacc hx hy]
  exact if_congr ((mem_blockCells hsx hsy).trans hcell) rfl rfl

/-! ### The whole buffer -/

/-- Every listed cell fills its own block: no two have the same number. -/
theorem read_foldl_fillBlock {sx sy w : Nat} (hsx : 0 < sx) (hsy : 0 < sy) {cells : List (Nat × Pixel)} (hrise : CellsRise cells)
    {acc : Buf} (hacc : acc.wf = true) (hw : acc.w = sx * w) {x y : Nat} (hx : x < acc.w) (hy : y < acc.h) :
    (cells.foldl (fillBlock sx sy w) acc).read x y = (cells.lookup (y / sy * w + x / sx)).or (acc.read x y) := by
  induction cells generalizing acc with
  | nil => rfl
  | cons c rest ih =>
    obtain ⟨k, v⟩ := c
    obtain ⟨hk, hrest⟩ := List.pairwise_cons.1 hrise
    obtain ⟨-, hw', hh', -⟩ := sameFrame_fillBlock sx sy w acc (k, v)
    rw [List.foldl_cons, ih hrest (fillBlock_wf sx sy w hacc _) (hw'.trans hw) (hw' ▸ hx) (hh' ▸ hy),
      read_fillBlock hsx hsy hacc hw _ hx hy, List.lookup_cons]
    by_cases hcell : y / sy * w + x / sx = k
    · simp [hcell, lookup_eq_none_of_lt hk]
    · simp [hcell, beq_eq_false_iff_ne.2 hcell]

theorem scale_frame (sx sy : Nat) (b : Buf) :
    (b.scale sx sy).kind = b.kind ∧ (b.scale sx sy).w = sx * b.w ∧ (b.scale sx sy).h = sy * b.h ∧
      (b.scale sx sy).pal = b.pal :=
  sameFrame_foldl (sameFrame_fillBlock sx sy b.w) b.cells (Buf.new b.kind (sx * b.w) (sy * b.h) b.pal)

/-- `B'(x', y') = B(x' / sx, y' / sy)` (R81 to R83). -/
theorem read_scale {sx sy : Nat} (hsx : 0 < sx) (hsy : 0 < sy) {b : Buf} (hb : b.wf = true) {x y : Nat} (hx : x < sx * b.w)
    (hy : y < sy * b.h) : (b.scale sx sy).read x y = b.read (x / sx) (y / sy) := by
  obtain ⟨hrise, -⟩ := (cellsWf_iff _ _ _).1 hb
  have hblank : (Buf.new b.kind (sx * b.w) (sy * b.h) b.pal).read x y = some b.kind.fill := if_pos ⟨hx, hy⟩
  rw [scale_eq_foldl, read_foldl_fillBlock hsx hsy hrise (new_wf ..) rfl hx hy, hblank, Buf.read,
    if_pos ⟨Nat.div_lt_of_lt_mul hx, Nat.div_lt_of_lt_mul hy⟩, cellAt]
  cases b.cells.lookup (y / sy * b.w + x / sx) <;> rfl

/-- The doubling on demand (R84). -/
theorem postDouble_frame (double : Bool) (b : Buf) :
    (postDouble double b).kind = b.kind ∧ (postDouble double b).w = (if double then 2 else 1) * b.w ∧
      (postDouble double b).h = (if double then 2 else 1) * b.h ∧ (postDouble double b).pal = b.pal := by
  cases double with
  | false => exact ⟨rfl, (Nat.one_mul _).symm, (Nat.one_mul _).symm, rfl⟩
  | true =>
    have hscale : postDouble true b = b.scale 2 2 := by
      unfold postDouble
      cases b.kind <;> rfl
    rw [hscale]
    exact scale_frame 2 2 b

/-- Settles O25: both routines scale by 2 in either direction. -/
theorem doublingReplicatesCells : Obligations.DoublingReplicatesCells := by
  intro b hb
  obtain ⟨hkind, hw, hh, hpal⟩ := scale_frame 2 2 b
  have hcells : ∀ x y, x < 2 * b.w → y < 2 * b.h → (b.scale 2 2).read x y = b.read (x / 2) (y / 2) := fun _ _ hx hy =>
    read_scale Nat.two_pos Nat.two_pos hb hx hy
  exact ⟨fun hk => ⟨hkind.trans hk, hw, hh, hpal, hcells⟩, fun hk => ⟨hkind.trans hk, hw, hh, hcells⟩⟩

/-- Settles O26: row duplication scales by 1 and 2. -/
theorem rowDupRepeatsRows : Obligations.RowDupRepeatsRows := by
  intro b hb hk
  obtain ⟨hkind, hw, hh, hpal⟩ := scale_frame 1 2 b
  refine ⟨hkind.trans hk, hw.trans (Nat.one_mul _), hh, hpal, fun x y hx hy => ?_⟩
  rw [rowDup, read_scale Nat.one_pos Nat.two_pos hb (by omega) hy, Nat.div_one]

end Sys2Proof.Machine
end

section
/-! The palette resolver and its word, where the registers they read are set (R77, R78). -/

namespace Sys2Proof.Machine

/-- PALWORD writes its entry; what follows depends on the index (R77, R78). -/
theorem execPalword_of {s : State} {src : PalSource} {i : Fin 16} (hpt : s.pt = .paletteWord src i) (r g b : BitVec 3) :
    execPalword r g b s =
      if h : i.val + 1 < 16 then
        .next { s with pal := s.pal.set i (some (palWord s.p r g b)), pt := .paletteWord src ⟨i.val + 1, h⟩ }
      else startPixels { s with pal := s.pal.set i (some (palWord s.p r g b)) } := by
  rw [execPalword, needPaletteIndex_of hpt]
  rfl

/-- Settles O35: the entry is written in either case, and the pixel loop begins by `startPixels_of`. -/
theorem palwordWritesOneColour : Obligations.PalwordWritesOneColour := by
  intro r g b s src i hpt s'
  have hexec : exec (.palword r g b) s = _ := execPalword_of hpt r g b
  refine ⟨fun h => by rw [hexec, dif_pos h]; rfl, fun hi f beg eff buf hop hbeg heff hbuf => ?_⟩
  have hlast : ¬ i.val + 1 < 16 := by omega
  rw [hexec, dif_neg hlast]
  exact startPixels_of (s := s') hop hbeg heff hbuf

/-! ### The resolver -/

/-- An input that the preamble accepts goes on with the resolver or with the pixel loop (R86 to R90, R175). -/
theorem execScrhdr_of_accepted {s : State} {f : Screen} {beg fin : Word16} (hop : s.op = some (.screen f))
    (horder : beg.toNat ≤ fin.toNat)
    (hpay : pictureEnd f s fin ≤ beg.toNat ∨ 7 + (pictureEnd f s fin - beg.toNat) ≤ s.d.size) :
    execScrhdr beg fin s =
      if resolvesPalette f then palResolve (s.afterPreamble f beg fin) else startPixels (s.afterPreamble f beg fin) := by
  have hcut : ¬ (beg.toNat < pictureEnd f s fin ∧ s.d.size < 7 + (pictureEnd f s fin - beg.toNat)) := by omega
  rw [execScrhdr, needScreen_of hop]
  dsimp only
  rw [if_neg (Nat.not_lt.2 horder)]
  exact if_neg hcut

theorem phys_of_le {beg a : Nat} (h : beg ≤ a) : phys beg a = some (7 + (a - beg)) := if_pos h

theorem phys_of_lt {beg a : Nat} (h : a < beg) : phys beg a = none := if_neg (Nat.not_le.2 h)

section
variable {s : State} {f : Screen} {beg fin : Word16}

/-- Branch (1) of the resolver: `END ≥ POFF` (R78). -/
theorem palResolve_embedded (hop : s.op = some (.screen f)) (hbeg : s.begA = some beg) (hfin : s.endA = some fin)
    (hpoff : s.poff = some (paletteOffsetOf s.p f)) {po : Word16} (hpo : paletteOffsetOf s.p f = some po)
    (hle : po.toNat ≤ fin.toNat) :
    palResolve s =
      if po.toNat < beg.toNat then .next (s.raise .truncatedPayload po.toNat)
      else if s.d.size < 7 + (po.toNat - beg.toNat) + 32 then
        .next (s.raise .truncatedPayload (7 + (po.toNat - beg.toNat) : Nat))
      else .next (s.goto (.paletteWord (.embedded (7 + (po.toNat - beg.toNat))) 0)) := by
  rw [palResolve_of hop hbeg hfin hpoff, hpo]
  dsimp only
  rw [if_pos hle]
  by_cases hbelow : po.toNat < beg.toNat
  · rw [phys_of_lt hbelow, if_pos hbelow]
  · rw [phys_of_le (Nat.le_of_not_lt hbelow), if_neg hbelow]

/-- Branches (2) and (3) of the resolver: no `POFF`, or `END < POFF` (R78). -/
theorem palResolve_fallback (hop : s.op = some (.screen f)) (hbeg : s.begA = some beg) (hfin : s.endA = some fin)
    (hpoff : s.poff = some (paletteOffsetOf s.p f))
    (hlt : ∀ po, paletteOffsetOf s.p f = some po → fin.toNat < po.toNat) : palResolve s = palFallback s := by
  rw [palResolve_of hop hbeg hfin hpoff]
  cases hpo : paletteOffsetOf s.p f with
  | none => rfl
  | some po => exact if_neg (Nat.not_le.2 (hlt po hpo))

theorem palFallback_external {e : Memory} (he : s.cfg.ext = some e) :
    palFallback s =
      if e.size < 32 then .next (s.raise .truncatedPayload e.size) else .next (s.goto (.paletteWord .external 0)) := by
  rw [palFallback, he]

theorem palFallback_default (he : s.cfg.ext = none) : palFallback s = startPixels { s with pal := s.p.defpal.map some } := by
  rw [palFallback, he]

end

/-- Settles O43: the preamble is over, and each branch of the resolver is one of its equations. -/
theorem scrhdrResolvesThePalette : Obligations.ScrhdrResolvesThePalette := by
  intro beg fin s f hop hres horder hpay out s'
  have hout : out = palResolve s' := (execScrhdr_of_accepted hop horder hpay).trans (if_pos hres)
  rw [hout]
  refine ⟨fun po hpo hle => ?_, fun hlt => ?_⟩
  · rw [palResolve_embedded (s := s') hop rfl rfl rfl hpo hle]
    refine ⟨fun hbelow => if_pos hbelow, fun habove hsize => ?_, fun habove hsize => ?_⟩
    · rw [if_neg (Nat.not_lt.2 habove)]
      exact if_pos hsize
    · rw [if_neg (Nat.not_lt.2 habove)]
      exact if_neg (Nat.not_lt.2 hsize)
  · rw [palResolve_fallback (s := s') hop rfl rfl rfl hlt]
    refine ⟨fun e he hsize => ?_, fun e he hsize => ?_, fun he => ?_⟩
    · rw [palFallback_external (s := s') he]
      exact if_pos hsize
    · rw [palFallback_external (s := s') he]
      exact if_neg (Nat.not_lt.2 hsize)
    · rw [palFallback_default (s := s') he]
      exact startPixels_of (s := { s' with pal := s.p.defpal.map some }) hop rfl rfl rfl

end Sys2Proof.Machine
end

section
/-! What the bytes of a header and of a palette word say, once they have been decoded (R44, R56, R60, R61). -/

namespace Sys2Proof

theorem decode_screenHeader_ok {bs rest : List Byte} {i : Instr} (h : decode .screenHeader bs = .ok (i, rest)) :
    ∃ b1 b2 b3 b4, bs[1]? = some b1 ∧ bs[2]? = some b2 ∧ bs[3]? = some b3 ∧ bs[4]? = some b4 ∧
      i = .scrhdr (le16 b1 b2) (le16 b3 b4) := by
  obtain _ | ⟨b0, _ | ⟨b1, _ | ⟨b2, _ | ⟨b3, _ | ⟨b4, _ | ⟨b5, _ | ⟨b6, tail⟩⟩⟩⟩⟩⟩⟩ := bs
  all_goals cases h
  exact ⟨b1, b2, b3, b4, rfl, rfl, rfl, rfl, rfl⟩

theorem decode_paletteWord_ok {bs rest : List Byte} {i : Instr} (h : decode .paletteWord bs = .ok (i, rest)) :
    ∃ lo hi, bs[0]? = some lo ∧ bs[1]? = some hi ∧ i = decodePaletteWord (le16 lo hi) := by
  obtain _ | ⟨lo, _ | ⟨hi, tail⟩⟩ := bs
  all_goals cases h
  exact ⟨lo, hi, rfl, rfl, rfl⟩

theorem decode_stampHeader_ok {bs rest : List Byte} {i : Instr} (h : decode .stampHeader bs = .ok (i, rest)) :
    ∃ b0 b1 b2 b3, bs[0]? = some b0 ∧ bs[1]? = some b1 ∧ bs[2]? = some b2 ∧ bs[3]? = some b3 ∧
      i = .stphdr (le16 b0 b1) (le16 b2 b3) := by
  obtain _ | ⟨b0, _ | ⟨b1, _ | ⟨b2, _ | ⟨b3, tail⟩⟩⟩⟩ := bs
  all_goals cases h
  exact ⟨b0, b1, b2, b3, rfl, rfl, rfl, rfl, rfl⟩

end Sys2Proof

namespace Sys2Proof.Machine

theorem read_of_run {m : Memory} {off n k : Nat} {b : Byte} (h : (m.run off n)[k]? = some b) : m.read (off + k) = some b := by
  induction n generalizing off k with
  | zero => cases h
  | succ n ih =>
    cases hread : m.read off with
    | none =>
      rw [run_succ_of_none n hread] at h
      cases h
    | some c =>
      rw [run_succ_of_read n hread] at h
      cases k with
      | zero => exact hread.trans h
      | succ k =>
        rw [show off + (k + 1) = off + 1 + k by omega]
        exact ih h

/-- Two bytes of a run are the 16-bit word at the place of the first (R44). -/
theorem read16_of_run {m : Memory} {off n k : Nat} {lo hi : Byte} (hlo : (m.run off n)[k]? = some lo)
    (hhi : (m.run off n)[k + 1]? = some hi) : m.read16 (off + k) = some (le16 lo hi) := by
  have hhi' : m.read (off + (k + 1)) = some hi := read_of_run hhi
  rw [← Nat.add_assoc] at hhi'
  simp only [Memory.read16, read_of_run hlo, hhi', le16]

/-- A step runs what the bytes at its place spell, or is a failure. -/
theorem step_next {s t : State} (h : step s = .next t) :
    (∃ bs i rest, nextBytes s = .ok bs ∧ decode (placeOf s) bs = .ok (i, rest) ∧ exec i s = .next t) ∨
      ∃ e info, t = s.raise e info := by
  cases hbytes : nextBytes s with
  | error fault => simp [step, takeItem, hbytes] at h
  | ok bs =>
    simp only [step, takeItem, hbytes] at h
    split at h
    next r hdec => exact .inl ⟨bs, r.1, r.2, rfl, hdec, h⟩
    next r _ =>
      obtain ⟨e, info, hr⟩ := takeReject_eq_raise s r
      exact .inr ⟨e, info, (Host.Outcome.next.inj h).symm.trans hr⟩

end Sys2Proof.Machine
end

section
/-! A screen invocation from its header to its picture: the frame of the buffer is that of the header, and `PAL` is resolved
before the first pixel (R78, R85 to R87, R100 to R104). -/

namespace Sys2Proof.Machine

/-! ### The preamble and the palette -/

/-- Behind the preamble: the header names `BEG` and `END`, and the buffer has the frame that the preamble gave it (R86). -/
structure State.Framed (s : State) (f : Screen) (beg fin : Word16) : Prop where
  op : s.op = some (.screen f)
  begWord : s.d.read16 1 = some beg
  endWord : s.d.read16 3 = some fin
  buf : ∃ b, s.buf = some b ∧ (blankPicture f s fin).SameFrame b

/-- `PAL` holds the palette that R78 resolves, where the format has a resolver and `EXT` is a byte space. -/
def State.PaletteResolved (s : State) (f : Screen) (beg fin : Word16) : Prop :=
  resolvesPalette f = true → (∀ e, s.cfg.ext = some e → e.wf) →
    ∃ pal : Vector Rgb 16, ResolvedPalette f s beg fin pal ∧ s.pal = pal.map some

/-- The source of the palette words that R78 chooses, with its bytes and the offset of its first word. -/
inductive State.Chooses (s : State) (f : Screen) (beg fin : Word16) : PalSource → Memory → Nat → Prop
  | embedded {po : Word16} (hpo : paletteOffsetOf s.p f = some po) (hle : po.toNat ≤ fin.toNat)
      (hbeg : beg.toNat ≤ po.toNat) :
      State.Chooses s f beg fin (.embedded (7 + (po.toNat - beg.toNat))) s.d (7 + (po.toNat - beg.toNat))
  | external {e : Memory} (hlt : ∀ po, paletteOffsetOf s.p f = some po → fin.toNat < po.toNat) (he : s.cfg.ext = some e) :
      State.Chooses s f beg fin .external e 0

/-- The first `n` entries of `PAL` are those that the words of `m` from `base` on spell (R77, R78). -/
def State.SpelledBelow (s : State) (m : Memory) (base n : Nat) : Prop :=
  ∀ j : Fin 16, j.val < n → ∃ w, m.read16 (base + 2 * j.val) = some w ∧
    s.pal[j] = some (palWord s.p (w.extractLsb' 4 3) (w.extractLsb' 8 3) (w.extractLsb' 0 3))

section
variable {s t : State} {f : Screen} {beg fin : Word16}

theorem State.Framed.congr (h : s.Framed f beg fin) (hop : t.op = s.op) (hd : t.d = s.d) (hp : t.p = s.p) (hbuf : t.buf = s.buf) :
    t.Framed f beg fin where
  op := hop.trans h.op
  begWord := hd ▸ h.begWord
  endWord := hd ▸ h.endWord
  buf := by
    rw [hbuf, blankPicture, pictureHeight, hp]
    exact h.buf

theorem State.Framed.withBuf (h : s.Framed f beg fin) {b b' : Buf} (hb : s.buf = some b) (hsame : b.SameFrame b') :
    (s.withBuf b').Framed f beg fin where
  op := h.op
  begWord := h.begWord
  endWord := h.endWord
  buf := by
    obtain ⟨c, hc, hframe⟩ := h.buf
    obtain rfl : b = c := Option.some.inj (hb.symm.trans hc)
    exact ⟨b', rfl, hframe.trans hsame⟩

theorem afterPreamble_framed (hop : s.op = some (.screen f)) (hbeg : s.d.read16 1 = some beg) (hfin : s.d.read16 3 = some fin) :
    (s.afterPreamble f beg fin).Framed f beg fin :=
  ⟨hop, hbeg, hfin, blankPicture f s fin, rfl, .refl _⟩

theorem State.Chooses.congr {src : PalSource} {m : Memory} {base : Nat} (h : s.Chooses f beg fin src m base) (hd : t.d = s.d)
    (hcfg : t.cfg = s.cfg) (hp : t.p = s.p) : t.Chooses f beg fin src m base := by
  cases h with
  | embedded hpo hle hbeg => exact hd ▸ .embedded (hp ▸ hpo) hle hbeg
  | external hlt he => exact .external (hp ▸ hlt) (hcfg ▸ he)

theorem State.Chooses.nextBytes_eq {src : PalSource} {m : Memory} {base : Nat} (h : s.Chooses f beg fin src m base) {i : Fin 16}
    (hpt : s.pt = .paletteWord src i) : nextBytes s = .ok (m.run (base + 2 * i.val) 2) := by
  cases h with
  | embedded => simp only [nextBytes, hpt]
  | external _ he => rw [nextBytes_paletteWord_external hpt he, Nat.zero_add]

theorem State.Chooses.resolved {src : PalSource} {m : Memory} {base : Nat} (h : s.Chooses f beg fin src m base)
    {pal : Vector Rgb 16} (hwords : SpellsPalette s.p m base pal) (hext : ∀ e, s.cfg.ext = some e → e.wf) :
    ResolvedPalette f s beg fin pal := by
  cases h with
  | embedded hpo hle hbeg =>
    refine ⟨fun po hpo' _ => ?_, fun hlt => absurd (hlt _ hpo) (Nat.not_lt.2 hle)⟩
    obtain rfl := Option.some.inj (hpo.symm.trans hpo')
    exact ⟨hbeg, hwords⟩
  | external hlt he =>
    refine ⟨fun po hpo hle => absurd (hlt po hpo) (Nat.not_lt.2 hle), fun _ => ⟨fun e he' => ?_, fun hnone => ?_⟩⟩
    · obtain rfl := Option.some.inj (he.symm.trans he')
      exact ⟨hext _ he, hwords⟩
    · cases he.symm.trans hnone

/-- Sixteen words spell a palette. -/
theorem State.SpelledBelow.exists_palette {m : Memory} {base : Nat} (h : s.SpelledBelow m base 16) :
    ∃ pal : Vector Rgb 16, SpellsPalette s.p m base pal ∧ s.pal = pal.map some := by
  choose w hw hpal using fun j : Fin 16 => h j j.isLt
  refine ⟨Vector.ofFn fun j =>
    palWord s.p ((w j).extractLsb' 4 3) ((w j).extractLsb' 8 3) ((w j).extractLsb' 0 3), fun j => ⟨w j, hw j, by simp⟩, ?_⟩
  ext1 j hj
  simpa using hpal ⟨j, hj⟩

/-- A word more is an entry more (R77, R78). -/
theorem State.SpelledBelow.set {m : Memory} {base : Nat} {i : Fin 16} (h : s.SpelledBelow m base i) {w : Word16}
    (hw : m.read16 (base + 2 * i.val) = some w) :
    ({ s with pal := s.pal.set i (some (palWord s.p (w.extractLsb' 4 3) (w.extractLsb' 8 3) (w.extractLsb' 0 3))) } :
      State).SpelledBelow m base (i.val + 1) := by
  intro j hj
  by_cases hij : i = j
  · subst hij
    exact ⟨w, hw, by simp⟩
  · have hne : i.val ≠ j.val := fun e => hij (Fin.ext e)
    obtain ⟨w', hw', hpal⟩ := h j (by omega)
    exact ⟨w', hw', by simpa [hne] using hpal⟩

end

/-! ### The run -/

/-- The places of the three pixel loops (R92, R94, R99). -/
def inPixels : Point → Bool
  | .nibbles _ | .packedRgb _ | .group _ | .groupPixel _ _ => true
  | _ => false

/-- The picture of a screen invocation before the doubling: its frame, and its palette where it is indexed (R78, R85, R87). -/
structure State.Shows (s : State) (f : Screen) (beg fin : Word16) (b : Buf) : Prop where
  begWord : s.d.read16 1 = some beg
  endWord : s.d.read16 3 = some fin
  kind : b.kind = kindOf f
  w : b.w = widthOf s.p f
  h : b.h = pictureHeight f s fin
  direct : kindOf f = .rgba → b.pal = []
  entries : kindOf f = .idx → b.pal.length = 16
  palette : kindOf f = .idx → (∀ e, s.cfg.ext = some e → e.wf) →
    ∃ pal : Vector Rgb 16, ResolvedPalette f s beg fin pal ∧ b.pal = pal.toList.map solid

/-- The picture depends on the ports alone (R22). -/
theorem State.Shows.of_samePorts {s t : State} {f : Screen} {beg fin : Word16} {b : Buf} (hst : s.SamePorts t)
    (h : t.Shows f beg fin b) : s.Shows f beg fin b := by
  obtain ⟨-, hd, hcfg, hp⟩ := hst
  obtain ⟨hbeg, hfin, hkind, hw, hh, hdirect, hentries, hpalette⟩ := h
  simp only [ResolvedPalette, pictureHeight, hd, hcfg, hp] at hbeg hfin hw hh hpalette
  exact ⟨hbeg, hfin, hkind, hw, hh, hdirect, hentries, hpalette⟩

/-- What a screen invocation of format `f` has done at each of its places. -/
inductive State.Pictures (s : State) (f : Screen) : Prop
  /-- Nothing yet. -/
  | header (hpt : s.pt = .screenHeader) (hop : s.op = some (.screen f))
  /-- The preamble, and the palette words before this one. -/
  | palette {src : PalSource} {i : Fin 16} {beg fin : Word16} {m : Memory} {base : Nat} (hpt : s.pt = .paletteWord src i)
      (hframe : s.Framed f beg fin) (hchosen : s.Chooses f beg fin src m base) (hwords : s.SpelledBelow m base i)
  /-- The preamble and the resolver. -/
  | pixels {beg fin : Word16} (hpt : inPixels s.pt = true) (hframe : s.Framed f beg fin) (hpal : s.PaletteResolved f beg fin)
  /-- The invocation is over. -/
  | ended (hpt : s.pt = .dispatch)
      (himage : ∀ b, s.res = some (.image b) → ∃ beg fin b', b = postDouble s.cfg.double b' ∧ s.Shows f beg fin b')

/-- A drawing item goes on in the pixel loop, or ends it. -/
def DrawsOn (s t : State) : Prop := (∃ pt, inPixels pt = true ∧ t = s.goto pt) ∨ finishScreen s = .next t

section
variable {s t : State} {f : Screen} {beg fin : Word16}

theorem pictures_raise (s : State) (f : Screen) (e : Err) (info : Int) : (s.raise e info).Pictures f :=
  .ended rfl nofun

/-! ### How the pixel loop goes on -/

theorem inPixels_firstItem {beg eff : Nat} {pt : Point} (h : firstItem f beg eff = some pt) : inPixels pt = true := by
  unfold firstItem at h
  split at h
  all_goals
    obtain ⟨-, h⟩ := Option.ite_none_right_eq_some.1 h
    cases h
    rfl

theorem startPixels_drawsOn (h : startPixels s = .next t) : DrawsOn s t := by
  obtain ⟨f, beg, eff, -, -, -, ⟨pt, hpt, rfl⟩ | ⟨-, h⟩⟩ := startPixels_next.1 h
  · exact .inl ⟨pt, inPixels_firstItem hpt, rfl⟩
  · exact .inr h

theorem nextNibbles_drawsOn {a : Nat} (h : nextNibbles s a = .next t) : DrawsOn s t := by
  obtain ⟨eff, -, ⟨-, rfl⟩ | ⟨-, h⟩⟩ := nextNibbles_next.1 h
  · exact .inl ⟨_, rfl, rfl⟩
  · exact .inr h

theorem nextPackedRgb_drawsOn {a : Nat} (h : nextPackedRgb s a = .next t) : DrawsOn s t := by
  obtain ⟨eff, -, ⟨-, rfl⟩ | ⟨-, h⟩⟩ := nextPackedRgb_next.1 h
  · exact .inl ⟨_, rfl, rfl⟩
  · exact .inr h

theorem nextGroupPixel_drawsOn {a : Nat} {k : Fin 4} (h : nextGroupPixel s a k = .next t) : DrawsOn s t := by
  obtain ⟨_, rfl⟩ | ⟨-, h⟩ := nextGroupPixel_next.1 h
  · exact .inl ⟨_, rfl, rfl⟩
  · obtain ⟨eff, -, ⟨-, rfl⟩ | ⟨-, h⟩⟩ := nextGroup_next.1 h
    · exact .inl ⟨_, rfl, rfl⟩
    · exact .inr h

/-! ### The end of the pixel loop -/

/-- A direct-colour picture is the buffer as it is (R102 to R104). -/
theorem State.Framed.shows_rgba (hframe : s.Framed f beg fin) {b : Buf} (hb : s.buf = some b) (hk : kindOf f = .rgba) :
    s.Shows f beg fin b := by
  obtain ⟨c, hc, hkind, hw, hh, hpal⟩ := hframe.buf
  obtain rfl : b = c := Option.some.inj (hb.symm.trans hc)
  exact {
    begWord := hframe.begWord
    endWord := hframe.endWord
    kind := hkind
    w := hw
    h := hh
    direct := fun _ => hpal
    entries := fun hi => nomatch hk.symm.trans hi
    palette := fun hi => nomatch hk.symm.trans hi }

/-- An indexed picture takes the sixteen colours of `PAL` (R100, R101). -/
theorem State.Framed.shows_idx (hframe : s.Framed f beg fin) (hpal : s.PaletteResolved f beg fin) {b : Buf} (hb : s.buf = some b)
    (hk : kindOf f = .idx) {colours : List Rgb} (hc : s.pal.toList = colours.map some) :
    s.Shows f beg fin { b with pal := colours.map solid } := by
  obtain ⟨c, hc', hkind, hw, hh, -⟩ := hframe.buf
  obtain rfl : b = c := Option.some.inj (hb.symm.trans hc')
  refine ⟨hframe.begWord, hframe.endWord, hkind, hw, hh, fun hr => (nomatch hk.symm.trans hr), fun _ => ?_, fun _ hext => ?_⟩
  · have hlength := congrArg List.length hc
    simpa using hlength.symm
  · obtain ⟨pal, hres, hset⟩ := hpal (resolvesPalette_of_kind hk) hext
    have hcolours : pal.toList = colours := by
      refine (Option.some_injective Rgb).list_map ?_
      rw [← hc, hset, Vector.toList_map]
    exact ⟨pal, hres, by rw [hcolours]⟩

theorem finishScreen_pictures (hframe : s.Framed f beg fin) (hpal : s.PaletteResolved f beg fin) (h : finishScreen s = .next t) :
    t.Pictures f := by
  have image {b : Buf} (hshows : s.Shows f beg fin b) : (s.deliverImage b).Pictures f :=
    .ended rfl fun b' hb' => ⟨beg, fin, b, (Result.image.inj (Option.some.inj hb')).symm, { hshows with }⟩
  obtain ⟨f', b, hop, hb, h⟩ := finishScreen_next.1 h
  obtain rfl : f = f' := Operation.screen.inj (Option.some.inj (hframe.op.symm.trans hop))
  obtain ⟨hk, rfl⟩ | ⟨hk, colours, hc, rfl⟩ := h
  · exact image (hframe.shows_rgba hb hk)
  · exact image (hframe.shows_idx hpal hb hk hc)

theorem DrawsOn.pictures (h : DrawsOn s t) (hframe : s.Framed f beg fin) (hpal : s.PaletteResolved f beg fin) : t.Pictures f := by
  obtain ⟨pt, hpt, rfl⟩ | h := h
  · exact .pixels hpt (hframe.congr rfl rfl rfl rfl) hpal
  · exact finishScreen_pictures hframe hpal h

/-! ### The items -/

theorem palFallback_pictures (hframe : s.Framed f beg fin)
    (hlt : ∀ po, paletteOffsetOf s.p f = some po → fin.toNat < po.toNat) (h : palFallback s = .next t) : t.Pictures f := by
  cases he : s.cfg.ext with
  | some e =>
    rw [palFallback_external he] at h
    split at h
    · cases h
      exact pictures_raise ..
    · cases h
      exact .palette rfl (hframe.congr rfl rfl rfl rfl) (.external hlt he) fun j hj => absurd hj (Nat.not_lt_zero _)
  | none =>
    rw [palFallback_default he] at h
    refine (startPixels_drawsOn h).pictures (hframe.congr rfl rfl rfl rfl) fun _ _ => ⟨s.p.defpal, ?_, rfl⟩
    exact ⟨fun po hpo hle => absurd (hlt po hpo) (Nat.not_lt.2 hle), fun _ =>
      ⟨fun e he' => (nomatch he.symm.trans he'), fun _ => rfl⟩⟩

theorem palResolve_pictures (hframe : s.Framed f beg fin) (hbeg : s.begA = some beg) (hfin : s.endA = some fin)
    (hpoff : s.poff = some (paletteOffsetOf s.p f)) (h : palResolve s = .next t) : t.Pictures f := by
  by_cases hemb : ∃ po, paletteOffsetOf s.p f = some po ∧ po.toNat ≤ fin.toNat
  · obtain ⟨po, hpo, hle⟩ := hemb
    rw [palResolve_embedded hframe.op hbeg hfin hpoff hpo hle] at h
    split at h
    next =>
      cases h
      exact pictures_raise ..
    next habove =>
      split at h
      · cases h
        exact pictures_raise ..
      · cases h
        exact .palette rfl (hframe.congr rfl rfl rfl rfl) (.embedded hpo hle (Nat.le_of_not_lt habove)) fun j hj =>
          absurd hj (Nat.not_lt_zero _)
  · have hlt : ∀ po, paletteOffsetOf s.p f = some po → fin.toNat < po.toNat := fun po hpo =>
      Nat.lt_of_not_le fun hle => hemb ⟨po, hpo, hle⟩
    rw [palResolve_fallback hframe.op hbeg hfin hpoff hlt] at h
    exact palFallback_pictures hframe hlt h

theorem execScrhdr_pictures (hop : s.op = some (.screen f)) (hbeg : s.d.read16 1 = some beg) (hfin : s.d.read16 3 = some fin)
    (h : execScrhdr beg fin s = .next t) : t.Pictures f := by
  obtain ⟨f', hop', h⟩ := execScrhdr_next h
  obtain rfl : f = f' := Operation.screen.inj (Option.some.inj (hop.symm.trans hop'))
  have hframe := afterPreamble_framed hop hbeg hfin
  obtain ⟨-, rfl⟩ | ⟨-, -, -, rfl⟩ | ⟨-, -, ⟨-, h⟩ | ⟨hres, h⟩⟩ := h
  · exact pictures_raise ..
  · exact pictures_raise ..
  · exact palResolve_pictures hframe rfl rfl rfl h
  · exact (startPixels_drawsOn h).pictures hframe fun hres' => (nomatch hres.symm.trans hres')

theorem execPalword_pictures {src : PalSource} {i : Fin 16} {m : Memory} {base : Nat} {w : Word16}
    (hpt : s.pt = .paletteWord src i) (hframe : s.Framed f beg fin) (hchosen : s.Chooses f beg fin src m base)
    (hwords : s.SpelledBelow m base i) (hw : m.read16 (base + 2 * i.val) = some w)
    (h : exec (decodePaletteWord w) s = .next t) : t.Pictures f := by
  have hwords' := hwords.set hw
  change execPalword _ _ _ s = _ at h
  rw [execPalword_of hpt] at h
  split at h
  next hi =>
    cases h
    exact .palette rfl (hframe.congr rfl rfl rfl rfl) (hchosen.congr rfl rfl rfl) hwords'
  next hi =>
    refine (startPixels_drawsOn h).pictures (hframe.congr rfl rfl rfl rfl) fun _ hext => ?_
    rw [show i.val + 1 = 16 by omega] at hwords'
    obtain ⟨pal, hspells, hpal⟩ := hwords'.exists_palette
    exact ⟨pal, hchosen.resolved hspells hext, hpal⟩

theorem drawGroupPixel_pictures (hframe : s.Framed f beg fin) (hpal : s.PaletteResolved f beg fin) {c : Rgba}
    (h : drawGroupPixel s c = .next t) : t.Pictures f := by
  obtain ⟨a, k, w, b, -, -, hb, h⟩ := drawGroupPixel_next.1 h
  exact (nextGroupPixel_drawsOn h).pictures (hframe.withBuf hb (sameFrame_write ..)) hpal

/-- An item of a pixel loop draws into the buffer, whose frame stays, or reads a group (R91 to R99). -/
theorem pixelItem_pictures (hpt : inPixels s.pt = true) (hframe : s.Framed f beg fin) (hpal : s.PaletteResolved f beg fin)
    {i : Instr} (hi : SpelledAt (placeOf s) i) (h : exec i s = .next t) : t.Pictures f := by
  cases hp : s.pt
  all_goals
    rw [hp] at hpt
    simp only [placeOf, hp] at hi
  case nibbles =>
    replace hi := hi.place_eq nofun
    cases i with
    | nib =>
      obtain ⟨a, rb, b, -, -, hb, h⟩ := execNib_next h
      exact (nextNibbles_drawsOn h).pictures (hframe.withBuf hb ((sameFrame_write ..).trans (sameFrame_write ..))) hpal
    | _ => cases hi
  case packedRgb =>
    replace hi := hi.place_eq nofun
    cases i with
    | rgb8 =>
      obtain ⟨a, w, b, -, -, hb, h⟩ := execRgb8_next h
      exact (nextPackedRgb_drawsOn h).pictures (hframe.withBuf hb (sameFrame_write ..)) hpal
    | _ => cases hi
  case group =>
    replace hi := hi.place_eq nofun
    cases i with
    | yjkgrp =>
      obtain ⟨a, -, rfl⟩ := execYjkgrp_next h
      exact .pixels rfl (hframe.congr rfl rfl rfl rfl) hpal
    | _ => cases hi
  case groupPixel =>
    cases i with
    | yae =>
      obtain ⟨c, h⟩ := execYae_next h
      exact drawGroupPixel_pictures hframe hpal h
    | yjk =>
      obtain ⟨c, h⟩ := execYjk_next h
      exact drawGroupPixel_pictures hframe hpal h
    | _ => obtain hi | ⟨-, hi⟩ := hi <;> cases hi
  all_goals cases hpt

/-- Every step of a screen invocation keeps what it has done. -/
theorem step_pictures (hs : s.Pictures f) (hpt : s.pt ≠ .dispatch) (h : step s = .next t) : t.Pictures f := by
  obtain ⟨bs, i, rest, hbytes, hdec, h⟩ | ⟨e, info, rfl⟩ := step_next h
  · cases hs with
    | header hp hop =>
      simp only [placeOf, hp] at hdec
      simp only [nextBytes, hp, Except.ok.injEq] at hbytes
      subst hbytes
      obtain ⟨b1, b2, b3, b4, h1, h2, h3, h4, rfl⟩ := decode_screenHeader_ok hdec
      have hbeg := read16_of_run h1 h2
      have hfin := read16_of_run h3 h4
      rw [Nat.zero_add] at hbeg hfin
      exact execScrhdr_pictures hop hbeg hfin h
    | palette hp hframe hchosen hwords =>
      simp only [placeOf, hp] at hdec
      obtain rfl := Except.ok.inj ((hchosen.nextBytes_eq hp).symm.trans hbytes)
      obtain ⟨lo, hi, hlo, hhi, rfl⟩ := decode_paletteWord_ok hdec
      have hword := read16_of_run hlo hhi
      exact execPalword_pictures hp hframe hchosen hwords hword h
    | pixels hp hframe hpal => exact pixelItem_pictures hp hframe hpal (decode_spelledAt _ bs i rest hdec) h
    | ended hp => exact absurd hp hpt
  · exact pictures_raise ..

end

/-- The image that a whole screen invocation delivers. -/
theorem runItems_shows {s t : State} {f : Screen} {n : Nat} {b : Buf} (h : runItems n (s.enter (.screen f)) = .next t)
    (hb : t.res = some (.image b)) : ∃ beg fin b', b = postDouble t.cfg.double b' ∧ t.Shows f beg fin b' := by
  have hstart : (s.enter (.screen f)).Pictures f := .header rfl rfl
  obtain ⟨hend, hpt⟩ := runItems_keeps (P := (·.Pictures f)) (fun _ _ => step_pictures) hstart h
  cases hend with
  | ended _ himage => exact himage b hb
  | header hp => cases hp.symm.trans hpt
  | palette hp => cases hp.symm.trans hpt
  | pixels hp =>
    rw [hpt] at hp
    cases hp

end Sys2Proof.Machine
end

section
/-! A stamp invocation from its header to its picture, and the geometry of the images (R84, R87, R105 to R108). -/

namespace Sys2Proof.Machine

/-- Behind the header of a stamp: it names the size of the buffer, which has the two colours (R105, R106). -/
def State.StampFramed (s : State) (b : Buf) : Prop :=
  ∃ sw sh : Word16, s.d.read16 0 = some sw ∧ s.d.read16 2 = some sh ∧
    (Buf.new .idx sw.toNat sh.toNat stampPalette).SameFrame b

/-- What a stamp invocation has done at each of its places. -/
inductive State.Stamps (s : State) : Prop
  /-- Nothing yet. -/
  | header (hpt : s.pt = .stampHeader)
  /-- The header. -/
  | pixels {i : Nat} {b : Buf} (hpt : s.pt = .stampPair i) (hb : s.buf = some b) (hframe : s.StampFramed b)
  /-- The invocation is over. -/
  | ended (hpt : s.pt = .dispatch)
      (himage : ∀ b, s.res = some (.image b) → ∃ b', b = postDouble s.cfg.double (rowDup b') ∧ s.StampFramed b')

section
variable {s t : State}

theorem stampFrom_stamps {i : Nat} (h : stampFrom s i = .next t) {b : Buf} (hb : s.buf = some b) (hframe : s.StampFramed b) :
    t.Stamps := by
  obtain ⟨n, -, ⟨-, rfl⟩ | ⟨-, h⟩⟩ := stampFrom_next.1 h
  · exact .pixels rfl hb hframe
  · obtain ⟨c, hc, rfl⟩ := finishStamp_next.1 h
    obtain rfl : b = c := Option.some.inj (hb.symm.trans hc)
    exact .ended rfl fun b' hb' => ⟨b, (Result.image.inj (Option.some.inj hb')).symm, hframe⟩

theorem drawStamp_stamps {b : Buf} (hb : s.buf = some b) (hframe : s.StampFramed b) {v : BitVec 4}
    (h : drawStamp v s = .next t) : t.Stamps := by
  obtain ⟨i, w, c, -, -, hc, h⟩ := drawStamp_next.1 h
  obtain rfl : b = c := Option.some.inj (hb.symm.trans hc)
  obtain ⟨sw, sh, hsw, hsh, hsame⟩ := hframe
  exact stampFrom_stamps h rfl ⟨sw, sh, hsw, hsh, hsame.trans (sameFrame_write ..)⟩

theorem execStphdr_stamps {sw sh : Word16} (hsw : s.d.read16 0 = some sw) (hsh : s.d.read16 2 = some sh)
    (h : execStphdr sw sh s = .next t) : t.Stamps := by
  obtain ⟨-, rfl⟩ | ⟨-, h⟩ := execStphdr_next h
  · exact .ended rfl nofun
  · exact stampFrom_stamps h rfl ⟨sw, sh, hsw, hsh, .refl _⟩

theorem stampPair_stamps {i : Instr} (hi : i.place = .stampPair) {b : Buf} (hb : s.buf = some b) (hframe : s.StampFramed b)
    (h : exec i s = .next t) : t.Stamps := by
  cases i with
  | stp0 | stp1 => exact drawStamp_stamps hb hframe h
  | stphi low =>
    obtain rfl | ⟨v, h⟩ := execStphi_next h
    · exact .ended rfl nofun
    · exact drawStamp_stamps hb hframe h
  | _ => cases hi

/-- Every step of a stamp invocation keeps what it has done. -/
theorem step_stamps (hs : s.Stamps) (hpt : s.pt ≠ .dispatch) (h : step s = .next t) : t.Stamps := by
  obtain ⟨bs, i, rest, hbytes, hdec, h⟩ | ⟨e, info, rfl⟩ := step_next h
  · cases hs with
    | header hp =>
      simp only [placeOf, hp] at hdec
      simp only [nextBytes, hp, Except.ok.injEq] at hbytes
      subst hbytes
      obtain ⟨b0, b1, b2, b3, h0, h1, h2, h3, rfl⟩ := decode_stampHeader_ok hdec
      have hsw := read16_of_run h0 h1
      have hsh := read16_of_run h2 h3
      rw [Nat.zero_add] at hsw hsh
      exact execStphdr_stamps hsw hsh h
    | pixels hp hb hframe =>
      simp only [placeOf, hp] at hdec
      exact stampPair_stamps ((decode_spelledAt _ bs i rest hdec).place_eq nofun) hb hframe h
    | ended hp => exact absurd hp hpt
  · exact .ended rfl nofun

end

/-- The image that a whole stamp invocation delivers. -/
theorem runItems_stampFramed {s t : State} {n : Nat} {b : Buf} (h : runItems n (s.enter .stp) = .next t)
    (hb : t.res = some (.image b)) : ∃ b', b = postDouble t.cfg.double (rowDup b') ∧ t.StampFramed b' := by
  have hstart : (s.enter .stp).Stamps := .header rfl
  obtain ⟨hend, hpt⟩ := runItems_keeps (P := State.Stamps) (fun _ _ => step_stamps) hstart h
  cases hend with
  | ended _ himage => exact himage b hb
  | header hp => cases hp.symm.trans hpt
  | pixels hp => cases hp.symm.trans hpt

/-! ### Geometry -/

/-- The height is one of the two, by the rows that the payload fills where a row has bytes (R87, log 9). -/
theorem heightOf_eq_or (fin rb : Nat) : heightOf fin rb = 192 ∨ heightOf fin rb = 212 := by
  unfold heightOf
  split
  · exact .inl rfl
  · exact .inr rfl

theorem heightOf_of_pos (fin : Nat) {rb : Nat} (h : 0 < rb) : heightOf fin rb = if fin / rb ≤ 192 then 192 else 212 := by
  rw [heightOf, quot, if_neg (Nat.ne_of_gt h)]

/-- Settles O19: the frame of the buffer is kept from the header to the picture, and the doubling and the row duplication scale
it. -/
theorem imagesHaveTheirGeometry : Obligations.ImagesHaveTheirGeometry := by
  intro s t b hpt hstep hb m
  have hports := step_samePorts hstep
  obtain ⟨-, hd, hcfg, -⟩ := step_samePorts hstep
  rw [step_dispatch hpt] at hstep
  refine ⟨fun f htag => ?_, fun htag => ?_⟩
  · rw [htag, exec_legal] at hstep
    obtain ⟨beg, fin, b', rfl, hshows⟩ := runItems_shows hstep hb
    obtain ⟨hbeg, hfin, hkind, hw, hh, hdirect, hentries, hpalette⟩ := hshows.of_samePorts hports
    rw [hcfg]
    obtain ⟨hkind', hw', hh', hpal'⟩ := postDouble_frame s.cfg.double b'
    rw [hw] at hw'
    rw [hh, pictureHeight] at hh'
    refine ⟨hkind'.trans hkind, hw', beg, fin, hbeg, hfin, ?_, fun rb hrb hpos => ?_, fun hk => hpal'.trans (hdirect hk),
      fun hk => ⟨hpal' ▸ hentries hk, fun hext => hpal' ▸ hpalette hk hext⟩⟩
    · exact (heightOf_eq_or fin.toNat (rowBytes (variantOf f) (widthOf s.p f))).imp (fun h => hh'.trans (by rw [h]))
        fun h => hh'.trans (by rw [h])
    · rw [hh', ← hrb, heightOf_of_pos _ hpos]
  · rw [htag, exec_legal] at hstep
    obtain ⟨b', rfl, sw, sh, hsw, hsh, hkind, hw, hh, hpal⟩ := runItems_stampFramed hstep hb
    rw [hd] at hsw hsh
    rw [hcfg]
    obtain ⟨hkind', hw', hh', hpal'⟩ := postDouble_frame s.cfg.double (rowDup b')
    obtain ⟨hkind2, hw2, hh2, hpal2⟩ := scale_frame 1 2 b'
    refine ⟨hkind'.trans (hkind2.trans hkind), hpal'.trans (hpal2.trans hpal), sw, sh, hsw, hsh, hw'.trans ?_, hh'.trans ?_⟩
    · rw [rowDup, hw2, Nat.one_mul, hw]
      rfl
    · rw [rowDup, hh2, hh]
      rfl

end Sys2Proof.Machine
end

section
/-! The items of the pixel loops, where the registers they read are set (R91 to R99), and the preamble that comes before them
(R86 to R90). -/

namespace Sys2Proof.Machine

theorem quot_of_pos {b : Nat} (a : Nat) (h : 0 < b) : quot a b = a / b := if_neg (Nat.ne_of_gt h)

theorem rem_of_pos {b : Nat} (a : Nat) (h : 0 < b) : rem a b = a % b := if_neg (Nat.ne_of_gt h)

section
variable {s : State} {a eff : Nat}

/-- The variant-A loop goes on, or ends the picture (R92). -/
theorem nextNibbles_of (he : s.eff = some eff) :
    nextNibbles s a = if a + 1 < eff then .next (s.goto (.nibbles (a + 1))) else finishScreen s :=
  need_of he _

/-- The variant-B loop goes on, or ends the picture (R94). -/
theorem nextPackedRgb_of (he : s.eff = some eff) :
    nextPackedRgb s a = if a + 1 < eff then .next (s.goto (.packedRgb (a + 1))) else finishScreen s :=
  need_of he _

theorem execNib_of {rb : Nat} {b : Buf} (hpt : s.pt = .nibbles a) (hrb : s.rb = some rb) (hb : s.buf = some b)
    (hi lo : BitVec 4) :
    execNib hi lo s =
      nextNibbles
        (s.withBuf ((b.write (2 * rem a rb) (quot a rb) (.idx hi)).write (2 * rem a rb + 1) (quot a rb) (.idx lo))) a := by
  rw [execNib, needNibbleAddress_of hpt, need_of hrb, need_of hb]

theorem execRgb8_of {w : Nat} {b : Buf} (hpt : s.pt = .packedRgb a) (hw : s.w = some w) (hb : s.buf = some b)
    (g r : BitVec 3) (bl : BitVec 2) :
    execRgb8 g r bl s =
      nextPackedRgb (s.withBuf (b.write (rem a w) (quot a w) (.rgba (rgb8Colour s.p g r bl)))) a := by
  rw [execRgb8, needRgbAddress_of hpt, need_of hw, need_of hb]

end

/-- Settles O36: the two writes by `execNib_of`, and what follows them by `nextNibbles_of`. -/
theorem nibDrawsTwoPixels : Obligations.NibDrawsTwoPixels := by
  intro hi lo s a rb eff b hpt hrb hb heff b'
  have hexec : exec (.nib hi lo) s = nextNibbles (s.withBuf b') a := execNib_of hpt hrb hb hi lo
  rw [hexec, nextNibbles_of (s := s.withBuf b') heff]
  refine ⟨fun hpos => ⟨quot_of_pos a hpos, rem_of_pos a hpos⟩, fun hlt => if_pos hlt, fun hle f hop => ?_⟩
  rw [if_neg (Nat.not_lt.2 hle)]
  exact finishScreen_ends (s := s.withBuf b') hop rfl

/-- Settles O37: the write by `execRgb8_of`, and what follows it by `nextPackedRgb_of`. -/
theorem rgb8DrawsOnePixel : Obligations.Rgb8DrawsOnePixel := by
  intro g r bl s a w eff b hpt hw hb heff b'
  have hexec : exec (.rgb8 g r bl) s = nextPackedRgb (s.withBuf b') a := execRgb8_of hpt hw hb g r bl
  rw [hexec, nextPackedRgb_of (s := s.withBuf b') heff]
  refine ⟨fun hpos => ⟨quot_of_pos a hpos, rem_of_pos a hpos⟩, fun hlt => if_pos hlt, fun hle f hop => ?_⟩
  rw [if_neg (Nat.not_lt.2 hle)]
  exact finishScreen_ends (s := s.withBuf b') hop rfl

/-- Settles O38: the model's chroma value is the arithmetic of `chromaOf`. -/
theorem yjkgrpReadsChroma : Obligations.YjkgrpReadsChroma := by
  intro g0 g1 g2 g3 s a hpt
  change execYjkgrp g0 g1 g2 g3 s = _
  rw [execYjkgrp, needGroupAddress_of hpt, sext6_chromaBits, sext6_chromaBits]
  rfl

/-- Settles O39: each item reads its colour, and `drawGroupPixel_of` draws it. -/
theorem groupPixelDrawsOneCell : Obligations.GroupPixelDrawsOneCell := by
  intro s a w k b hpt hw hb
  refine ⟨fun idx c hc => ?_, fun y jc kc hjc hkc => ?_⟩
  · have hexec : exec (.yae idx) s = drawGroupPixel s (solid c) := need_of hc _
    rw [hexec]
    exact drawGroupPixel_of hpt hw hb
  · have hexec : exec (.yjk y) s = drawGroupPixel s (yjkColour s.p y jc kc) := (need_of hjc _).trans (need_of hkc _)
    rw [hexec]
    exact drawGroupPixel_of hpt hw hb

/-! ### The preamble -/

theorem execScrhdr_of_reversed {s : State} {f : Screen} {beg fin : Word16} (hop : s.op = some (.screen f))
    (hrev : fin.toNat < beg.toNat) :
    execScrhdr beg fin s =
      .next (({ s with begA := some beg, endA := some fin } : State).raise .malformedHeader beg.toNat) := by
  rw [execScrhdr, needScreen_of hop]
  exact if_pos hrev

theorem execScrhdr_of_cut {s : State} {f : Screen} {beg fin : Word16} (hop : s.op = some (.screen f))
    (horder : beg.toNat ≤ fin.toNat) (hsome : beg.toNat < pictureEnd f s fin)
    (hcut : s.d.size < 7 + (pictureEnd f s fin - beg.toNat)) :
    execScrhdr beg fin s = .next ((s.afterHeader f beg fin).raise .truncatedPayload (pictureEnd f s fin)) := by
  rw [execScrhdr, needScreen_of hop]
  dsimp only
  rw [if_neg (Nat.not_lt.2 horder)]
  exact if_pos ⟨hsome, hcut⟩

/-- Settles O42: one equation of the preamble for each of its outcomes. -/
theorem scrhdrRunsThePreamble : Obligations.ScrhdrRunsThePreamble := by
  intro beg fin s f hop out eff
  refine ⟨fun hrev => execScrhdr_of_reversed hop hrev, fun horder hsome hcut => execScrhdr_of_cut hop horder hsome hcut,
    fun horder hpay hres => ?_⟩
  have hout : out = startPixels (s.afterPreamble f beg fin) :=
    (execScrhdr_of_accepted hop horder hpay).trans (if_neg (by simp [hres]))
  rw [hout]
  exact startPixels_of (s := s.afterPreamble f beg fin) hop rfl rfl rfl

end Sys2Proof.Machine
end

section
/-! A buffer that has been painted pixel by pixel up to a number (R90 to R94, R99). -/

namespace Sys2Proof.Machine

/-- The pixels with numbers below `n` hold what `cell` gives, every other cell the fill. Rows have `r` pixels; the cells of a row
behind them have no number (R90, R91). -/
structure Buf.PaintedBelow (b : Buf) (r : Nat) (cell : Nat → Nat → Pixel) (n : Nat) : Prop where
  wf : b.wf = true
  cells : ∀ x y, x < b.w → y < b.h → b.read x y = some (if x < r ∧ y * r + x < n then cell x y else b.kind.fill)

theorem number_eq_iff {r x y n : Nat} (hx : x < r) : y * r + x = n ↔ x = n % r ∧ y = n / r := by
  have hr : 0 < r := Nat.zero_lt_of_lt hx
  constructor
  · rintro rfl
    rw [Nat.mul_comm, Nat.mul_add_mod, Nat.mod_eq_of_lt hx, Nat.mul_add_div hr, Nat.div_eq_of_lt hx]
    exact ⟨rfl, rfl⟩
  · rintro ⟨rfl, rfl⟩
    exact Nat.div_add_mod' n r

section
variable {b : Buf} {r n : Nat} {cell : Nat → Nat → Pixel}

/-- A blank buffer is painted up to where the picture begins. -/
theorem new_paintedBelow (kind : Kind) (w h : Nat) (pal : List Rgba)
    (hfill : ∀ x y, x < r → y * r + x < n → cell x y = kind.fill) : (Buf.new kind w h pal).PaintedBelow r cell n where
  wf := new_wf kind w h pal
  cells := by
    intro x y hx hy
    have hread : (Buf.new kind w h pal).read x y = some kind.fill := if_pos ⟨hx, hy⟩
    rw [hread]
    split
    next hn => rw [hfill x y hn.1 hn.2]
    next => rfl

/-- Painting pixel `n` at its place (R50, R91, R93, R96, R97). -/
theorem Buf.PaintedBelow.write (h : b.PaintedBelow r cell n) (hr : 0 < r) {v : Pixel} (hv : cell (n % r) (n / r) = v) :
    (b.write (n % r) (n / r) v).PaintedBelow r cell (n + 1) where
  wf := write_wf _ _ _ h.wf
  cells := by
    intro x y hx hy
    rw [write_w] at hx
    rw [write_h] at hy
    rw [read_write h.wf, h.cells x y hx hy, write_kind]
    by_cases hat : x = n % r ∧ y = n / r
    · have hxr : x < r := hat.1 ▸ Nat.mod_lt n hr
      have hnum : y * r + x = n := (number_eq_iff hxr).2 hat
      obtain ⟨rfl, rfl⟩ := hat
      rw [if_pos ⟨rfl, rfl, hx, hy⟩, if_pos ⟨hxr, by omega⟩, hv]
    · have hiff : (x < r ∧ y * r + x < n + 1) ↔ (x < r ∧ y * r + x < n) := by
        refine and_congr_right fun hxr => ?_
        have hne : y * r + x ≠ n := fun e => hat ((number_eq_iff hxr).1 e)
        omega
      rw [if_neg fun hc => hat ⟨hc.1, hc.2.1⟩]
      simp only [hiff]

/-- A buffer painted up to where the picture ends shows it. -/
theorem Buf.PaintedBelow.read_eq (h : b.PaintedBelow r cell n)
    (hrest : ∀ x y, x < b.w → ¬ (x < r ∧ y * r + x < n) → cell x y = b.kind.fill) {x y : Nat} (hx : x < b.w)
    (hy : y < b.h) : b.read x y = some (cell x y) := by
  rw [h.cells x y hx hy]
  split
  next => rfl
  next hn => rw [hrest x y hx hn]

end

end Sys2Proof.Machine
end

section
/-! The picture of a format, cell by cell: what each pixel of the loop shows, and the fill outside the payload (R85, R88, R90 to
R99). -/

namespace Sys2Proof.Machine

/-- The pixels that one payload byte of a format spells (R57 to R59). -/
def pixelsPerByte (f : Screen) : Nat :=
  match variantOf f with
  | .a => 2
  | .b | .c => 1

/-- The pixels of a row that have an address (R85, R91, R93, R96). -/
def rowPixels (f : Screen) (s : State) : Nat := pixelsPerByte f * rowBytes (variantOf f) (widthOf s.p f)

/-- What a cell of a picture of format `f` shows (R85). -/
def pictureCell (f : Screen) (s : State) (beg fin : Word16) (pal : Vector Rgb 16) : Nat → Nat → Pixel :=
  match variantOf f with
  | .a => cellA f s beg fin
  | .b => cellB f s beg fin
  | .c => cellC f s beg fin pal

/-- The palette of a finished picture of format `f` (R30, R100 to R104). -/
def picturePalette (f : Screen) (pal : Vector Rgb 16) : List Rgba :=
  match kindOf f with
  | .idx => pal.toList.map solid
  | .rgba => []

section
variable {f : Screen} {s t : State} {beg fin : Word16} {pal : Vector Rgb 16} {x y : Nat}

theorem kindOf_eq_idx (hv : variantOf f = .a) : kindOf f = .idx := by
  cases f with
  | sc5 | sc7 => rfl
  | _ => cases hv

theorem kindOf_eq_rgba (hv : variantOf f ≠ .a) : kindOf f = .rgba := by
  cases f with
  | sc5 | sc7 => exact absurd rfl hv
  | _ => rfl

theorem rowBytes_of_ne (hv : variantOf f ≠ .a) (w : Nat) : rowBytes (variantOf f) w = w := by
  cases h : variantOf f with
  | a => exact absurd h hv
  | b | c => rfl

theorem pixelsPerByte_a (hv : variantOf f = .a) : pixelsPerByte f = 2 := by
  rw [pixelsPerByte, hv]

theorem pixelsPerByte_of_ne (hv : variantOf f ≠ .a) : pixelsPerByte f = 1 := by
  cases h : variantOf f with
  | a => exact absurd h hv
  | b | c => rw [pixelsPerByte, h]

theorem pixelsPerByte_pos (f : Screen) : 0 < pixelsPerByte f := by
  by_cases hv : variantOf f = .a
  · rw [pixelsPerByte_a hv]
    decide
  · rw [pixelsPerByte_of_ne hv]
    decide

/-- A picture depends on the ports alone (R22). -/
theorem pictureCell_of_samePorts (h : s.SamePorts t) : pictureCell f t beg fin pal = pictureCell f s beg fin pal := by
  obtain ⟨-, hd, -, hp⟩ := h
  calc pictureCell f t beg fin pal = pictureCell f { t with d := s.d, p := s.p } beg fin pal := by rw [← hd, ← hp]
    _ = pictureCell f s beg fin pal := rfl

/-! ### Variant A -/

theorem pictureCell_a (hv : variantOf f = .a) : pictureCell f s beg fin pal = cellA f s beg fin := by
  rw [pictureCell, hv]

theorem rowPixels_a (hv : variantOf f = .a) : rowPixels f s = 2 * rowBytes (variantOf f) (widthOf s.p f) := by
  rw [rowPixels, pixelsPerByte_a hv]

/-- Two pixels have the address of their byte (R91). -/
theorem address_of_number (r x y : Nat) : y * r + x / 2 = (y * (2 * r) + x) / 2 := by
  have hmul : y * (2 * r) = 2 * (y * r) := Nat.mul_left_comm ..
  omega

theorem cellA_eq (hx : x / 2 < rowBytes (variantOf f) (widthOf s.p f)) {a : Nat}
    (ha : y * rowBytes (variantOf f) (widthOf s.p f) + x / 2 = a) (hbeg : beg.toNat ≤ a) (hend : a < pictureEnd f s fin) :
    cellA f s beg fin x y =
      .idx (if x % 2 = 0 then (payloadByte s beg a).extractLsb' 4 4 else (payloadByte s beg a).extractLsb' 0 4) := by
  subst ha
  exact if_pos ⟨hx, hbeg, hend⟩

theorem cellA_eq_fill (h : ¬ (x / 2 < rowBytes (variantOf f) (widthOf s.p f) ∧
      beg.toNat ≤ y * rowBytes (variantOf f) (widthOf s.p f) + x / 2 ∧
      y * rowBytes (variantOf f) (widthOf s.p f) + x / 2 < pictureEnd f s fin)) :
    cellA f s beg fin x y = .idx 0 :=
  if_neg h

/-! ### Variants B and C -/

theorem pictureCell_b (hv : variantOf f = .b) : pictureCell f s beg fin pal = cellB f s beg fin := by
  rw [pictureCell, hv]

theorem pictureCell_c (hv : variantOf f = .c) : pictureCell f s beg fin pal = cellC f s beg fin pal := by
  rw [pictureCell, hv]

theorem rowPixels_of_ne (hv : variantOf f ≠ .a) : rowPixels f s = widthOf s.p f := by
  rw [rowPixels, rowBytes_of_ne hv, pixelsPerByte_of_ne hv, Nat.one_mul]

theorem cellB_eq {a : Nat} (ha : y * widthOf s.p f + x = a) (hbeg : beg.toNat ≤ a) (hend : a < pictureEnd f s fin) :
    cellB f s beg fin x y =
      .rgba (rgb8Colour s.p ((payloadByte s beg a).extractLsb' 5 3) ((payloadByte s beg a).extractLsb' 2 3)
        ((payloadByte s beg a).extractLsb' 0 2)) := by
  subst ha
  exact if_pos ⟨hbeg, hend⟩

theorem cellB_eq_fill (h : ¬ (beg.toNat ≤ y * widthOf s.p f + x ∧ y * widthOf s.p f + x < pictureEnd f s fin)) :
    cellB f s beg fin x y = .rgba ⟨0, 0, 0, 0⟩ :=
  if_neg h

/-- The colour of pixel `k` of the group at `a` (R96, R97, R99). -/
def groupColour (f : Screen) (s : State) (beg : Word16) (pal : Vector Rgb 16) (a k : Nat) : Rgba :=
  let luma := (payloadByte s beg (a + k)).extractLsb' 3 5
  if yaeOf f = true ∧ luma.toNat % 2 = 1 then solid (pal[luma.toNat / 2]'(by have := luma.isLt; omega))
  else
    lumaColour s.p luma (chromaOf (payloadByte s beg (a + 2)) (payloadByte s beg (a + 3)))
      (chromaOf (payloadByte s beg a) (payloadByte s beg (a + 1)))

theorem groupColour_escape {a k : Nat}
    (h : yaeOf f = true ∧ ((payloadByte s beg (a + k)).extractLsb' 3 5).toNat % 2 = 1) :
    groupColour f s beg pal a k =
      solid (pal[((payloadByte s beg (a + k)).extractLsb' 3 5).toNat / 2]'(by
        have := ((payloadByte s beg (a + k)).extractLsb' 3 5).isLt; omega)) :=
  if_pos h

theorem groupColour_luma {a k : Nat}
    (h : ¬ (yaeOf f = true ∧ ((payloadByte s beg (a + k)).extractLsb' 3 5).toNat % 2 = 1)) :
    groupColour f s beg pal a k =
      lumaColour s.p ((payloadByte s beg (a + k)).extractLsb' 3 5)
        (chromaOf (payloadByte s beg (a + 2)) (payloadByte s beg (a + 3)))
        (chromaOf (payloadByte s beg a) (payloadByte s beg (a + 1))) :=
  if_neg h

/-- An address of `[BEG, EFF)` belongs to one group, and to one pixel of it (R99). -/
theorem cellC_eq {a k : Nat} (hxy : y * widthOf s.p f + x = a + k) (hk : k < 4) (hbeg : beg.toNat ≤ a)
    (hgroup : (a - beg.toNat) % 4 = 0) (hend : a + 4 ≤ pictureEnd f s fin) :
    cellC f s beg fin pal x y = .rgba (groupColour f s beg pal a k) := by
  have hpixel : (a + k - beg.toNat) % 4 = k := by omega
  unfold cellC
  simp only [hxy, hpixel, Nat.add_sub_cancel]
  rw [if_pos ⟨by omega, hend⟩]
  split
  next hesc => rw [groupColour_escape hesc]
  next hesc => rw [groupColour_luma hesc]; rfl

theorem cellC_eq_fill (h : ¬ (beg.toNat ≤ y * widthOf s.p f + x ∧
      y * widthOf s.p f + x - (y * widthOf s.p f + x - beg.toNat) % 4 + 4 ≤ pictureEnd f s fin)) :
    cellC f s beg fin pal x y = .rgba ⟨0, 0, 0, 0⟩ :=
  if_neg h

/-! ### Outside the payload -/

/-- No pixel before the one at `BEG` is drawn (R90, R92, R94, R99). -/
theorem pictureCell_before (h : y * rowPixels f s + x < pixelsPerByte f * beg.toNat) :
    pictureCell f s beg fin pal x y = (kindOf f).fill := by
  cases hv : variantOf f with
  | a =>
    rw [rowPixels_a hv, pixelsPerByte_a hv] at h
    have haddress := address_of_number (rowBytes (variantOf f) (widthOf s.p f)) x y
    rw [pictureCell_a hv, kindOf_eq_idx hv]
    exact cellA_eq_fill (by omega)
  | b =>
    have hne : variantOf f ≠ .a := by simp [hv]
    rw [rowPixels_of_ne hne, pixelsPerByte_of_ne hne] at h
    rw [pictureCell_b hv, kindOf_eq_rgba hne]
    exact cellB_eq_fill (by omega)
  | c =>
    have hne : variantOf f ≠ .a := by simp [hv]
    rw [rowPixels_of_ne hne, pixelsPerByte_of_ne hne] at h
    rw [pictureCell_c hv, kindOf_eq_rgba hne]
    exact cellC_eq_fill (by omega)

/-- The pixel loop of format `f` has nothing left to draw from pixel `n` on: `EFF` is reached, or the next group would go beyond
it (R92, R94, R99). -/
def NothingLeft (f : Screen) (beg : Word16) (eff n : Nat) : Prop :=
  match variantOf f with
  | .a => 2 * eff ≤ n
  | .b => eff ≤ n
  | .c => eff < n + 4 ∧ (n - beg.toNat) % 4 = 0

theorem nothingLeft_a {eff a : Nat} (hv : variantOf f = .a) (h : eff ≤ a) : NothingLeft f beg eff (2 * a) := by
  rw [NothingLeft, hv]
  exact Nat.mul_le_mul_left 2 h

theorem nothingLeft_b {eff a : Nat} (hv : variantOf f = .b) (h : eff ≤ a) : NothingLeft f beg eff a := by
  rw [NothingLeft, hv]
  exact h

theorem nothingLeft_c {eff a : Nat} (hv : variantOf f = .c) (h : eff < a + 4) (hwhole : (a - beg.toNat) % 4 = 0) :
    NothingLeft f beg eff a := by
  rw [NothingLeft, hv]
  exact ⟨h, hwhole⟩

/-- Where nothing is left, the cells keep the fill (R88, R90, R98). -/
theorem pictureCell_after {n : Nat} (hleft : NothingLeft f beg (pictureEnd f s fin) n)
    (hrow : x < widthOf s.p f) (h : ¬ (x < rowPixels f s ∧ y * rowPixels f s + x < n)) :
    pictureCell f s beg fin pal x y = (kindOf f).fill := by
  unfold NothingLeft at hleft
  cases hv : variantOf f with
  | a =>
    rw [hv] at hleft
    dsimp only at hleft
    rw [rowPixels_a hv] at h
    have haddress := address_of_number (rowBytes (variantOf f) (widthOf s.p f)) x y
    rw [pictureCell_a hv, kindOf_eq_idx hv]
    exact cellA_eq_fill (by omega)
  | b =>
    have hne : variantOf f ≠ .a := by simp [hv]
    rw [hv] at hleft
    dsimp only at hleft
    rw [rowPixels_of_ne hne] at h
    rw [pictureCell_b hv, kindOf_eq_rgba hne]
    exact cellB_eq_fill (by omega)
  | c =>
    have hne : variantOf f ≠ .a := by simp [hv]
    rw [hv] at hleft
    dsimp only at hleft
    rw [rowPixels_of_ne hne] at h
    rw [pictureCell_c hv, kindOf_eq_rgba hne]
    exact cellC_eq_fill (by omega)

end

end Sys2Proof.Machine
end

section
/-! What is read of an input that the preamble accepts: the header, the payload bytes and the words of the palette are there
(R44, R49, R56 to R60, R78, R89). -/

namespace Sys2Proof.Machine

/-- Inside its bounds a byte space has its byte (R49). -/
theorem exists_read {m : Memory} (hm : m.wf) {off : Nat} (h : off < m.size) : ∃ b, m.read off = some b :=
  Option.isSome_iff_exists.1 ((read_isSome_iff hm off).2 h)

/-- A 16-bit field is its two bytes, the low one first (R44). -/
theorem exists_bytes_of_read16 {m : Memory} {off : Nat} {w : Word16} (h : m.read16 off = some w) :
    ∃ lo hi, m.read off = some lo ∧ m.read (off + 1) = some hi ∧ w = le16 lo hi := by
  unfold Memory.read16 at h
  split at h
  next lo hi hlo hhi => exact ⟨lo, hi, hlo, hhi, (Option.some.inj h).symm⟩
  next => cases h

/-- The fields of a header that is there (R56). -/
theorem decode_screenHeader_of {m : Memory} {beg fin : Word16} (hm : m.wf) (hsize : 7 ≤ m.size) (hbeg : m.read16 1 = some beg)
    (hfin : m.read16 3 = some fin) : decode .screenHeader (m.run 0 7) = .ok (.scrhdr beg fin, []) := by
  obtain ⟨b0, h0⟩ := exists_read hm (off := 0) (by omega)
  obtain ⟨b1, b2, h1, h2, rfl⟩ := exists_bytes_of_read16 hbeg
  obtain ⟨b3, b4, h3, h4, rfl⟩ := exists_bytes_of_read16 hfin
  obtain ⟨b5, h5⟩ := exists_read hm (off := 5) (by omega)
  obtain ⟨b6, h6⟩ := exists_read hm (off := 6) (by omega)
  rw [run_succ_of_read 6 h0, run_succ_of_read 5 h1, run_succ_of_read 4 h2, run_succ_of_read 3 h3, run_succ_of_read 2 h4,
    run_succ_of_read 1 h5, run_succ_of_read 0 h6]
  rfl

/-- The colour of a palette word that is there (R60). -/
theorem decode_paletteWord_of {m : Memory} {off : Nat} {w : Word16} (h : m.read16 off = some w) :
    decode .paletteWord (m.run off 2) = .ok (decodePaletteWord w, []) := by
  obtain ⟨lo, hi, hlo, hhi, rfl⟩ := exists_bytes_of_read16 h
  rw [run_succ_of_read 1 hlo, run_succ_of_read 0 hhi]
  rfl

section
variable {f : Screen} {s t : State} {beg fin : Word16} {pal : Vector Rgb 16}

theorem ScreenInput.of_samePorts (hst : s.SamePorts t) (h : ScreenInput f s beg fin) : ScreenInput f t beg fin := by
  obtain ⟨-, hd, -, hp⟩ := hst
  have ht : t = { t with d := s.d, p := s.p } := by rw [← hd, ← hp]
  rw [ht]
  exact ⟨h.input, h.header, h.begAt, h.endAt, h.order, h.row, h.payload⟩

theorem ResolvedPalette.of_samePorts (hst : s.SamePorts t) (h : ResolvedPalette f s beg fin pal) :
    ResolvedPalette f t beg fin pal := by
  obtain ⟨-, hd, hcfg, hp⟩ := hst
  simpa only [ResolvedPalette, hd, hcfg, hp] using h

/-- Every byte of `[BEG, EFF)` is there (R89). -/
theorem ScreenInput.read_payload (h : ScreenInput f s beg fin) {a : Nat} (hbeg : beg.toNat ≤ a)
    (hend : a < pictureEnd f s fin) : s.d.read (7 + (a - beg.toNat)) = some (payloadByte s beg a) := by
  have hpay := h.payload
  obtain ⟨v, hv⟩ := exists_read h.input (off := 7 + (a - beg.toNat)) (by omega)
  rw [payloadByte, hv]
  rfl

/-- The bytes of a whole group are there (R59, R89). -/
theorem ScreenInput.run_group (h : ScreenInput f s beg fin) {a : Nat} (hbeg : beg.toNat ≤ a)
    (hend : a + 4 ≤ pictureEnd f s fin) :
    s.d.run (7 + (a - beg.toNat)) 4 =
      [payloadByte s beg a, payloadByte s beg (a + 1), payloadByte s beg (a + 2), payloadByte s beg (a + 3)] := by
  have hread (j : Nat) (hj : j < 4) : s.d.read (7 + (a - beg.toNat) + j) = some (payloadByte s beg (a + j)) := by
    rw [← h.read_payload (a := a + j) (by omega) (by omega)]
    congr 1
    omega
  rw [← Nat.add_zero (7 + (a - beg.toNat)), run_succ_of_read 3 (hread 0 (by omega)), run_succ_of_read 2 (hread 1 (by omega)),
    run_succ_of_read 1 (hread 2 (by omega)), run_succ_of_read 0 (hread 3 (by omega))]
  rfl

/-- Addresses have 16 bits (R88). -/
theorem pictureEnd_lt (f : Screen) (s : State) (fin : Word16) : pictureEnd f s fin < 0x10000 :=
  Nat.lt_of_le_of_lt (Nat.min_le_left ..) fin.isLt

/-- Sixteen words that can be read are 32 bytes (R78). -/
theorem SpellsPalette.size_le {p : Params} {m : Memory} {base : Nat} (h : SpellsPalette p m base pal) (hm : m.wf) :
    base + 32 ≤ m.size := by
  obtain ⟨w, hw, -⟩ := h 15
  obtain ⟨-, hi, -, hhi, -⟩ := exists_bytes_of_read16 hw
  have hlt : base + 2 * 15 + 1 < m.size := (read_isSome_iff hm _).1 (by rw [Option.isSome_iff_exists]; exact ⟨hi, hhi⟩)
  omega

/-- The source that R78 chooses spells the palette that R78 resolves. -/
theorem ResolvedPalette.spells (h : ResolvedPalette f s beg fin pal) {src : PalSource} {m : Memory} {base : Nat}
    (hsrc : s.Chooses f beg fin src m base) : SpellsPalette s.p m base pal := by
  cases hsrc with
  | embedded hpo hle hbeg => exact (h.1 _ hpo hle).2
  | external hlt he => exact ((h.2 hlt).1 _ he).2

end

end Sys2Proof.Machine
end

section
/-! What a screen invocation has done at each of its places, where its pixel loop starts, and what it has drawn where the loop
is over (R85 to R104, R171). -/

namespace Sys2Proof.Machine

/-! ### Runs that end -/

/-- A run ends when every item keeps `P` and leaves fewer items (R171). -/
theorem runItems_ends {P : State → Prop} {left : State → Nat}
    (hP : ∀ s, P s → s.pt ≠ .dispatch → ∃ t, step s = .next t ∧ P t ∧ left t < left s) {n : Nat} {s : State} (hs : P s)
    (hn : left s ≤ n) : ∃ t, runItems n s = .next t ∧ P t ∧ t.pt = .dispatch := by
  induction n generalizing s with
  | zero =>
    by_cases hpt : s.pt = .dispatch
    · exact ⟨s, if_pos hpt, hs, hpt⟩
    · obtain ⟨t, -, -, hlt⟩ := hP s hs hpt
      omega
  | succ n ih =>
    by_cases hpt : s.pt = .dispatch
    · exact ⟨s, if_pos hpt, hs, hpt⟩
    · obtain ⟨u, hstep, hu, hlt⟩ := hP s hs hpt
      obtain ⟨t, hrun, ht⟩ := ih hu (by omega)
      refine ⟨t, ?_, ht⟩
      rw [runItems, if_neg hpt, takeItem_runItem hpt, hstep]
      exact hrun

/-- At most so many items of a screen invocation are left: the header, the sixteen palette words, and at most two for each of the
addresses (R92, R94, R99). -/
def Point.screenItemsLeft : Point → Nat
  | .screenHeader => 0x20000 + 17
  | .paletteWord _ i => 0x20000 + (16 - i.val)
  | .nibbles a | .packedRgb a | .group a => 2 * (0x10000 - a)
  | .groupPixel a k => 2 * (0x10000 - a) - 1 - k.val
  | _ => 0

/-! ### What a screen invocation has done -/

/-- The registers that the preamble has written and the pixel loop reads (R86, R88). -/
structure State.Prepared (s : State) (f : Screen) (beg fin : Word16) : Prop where
  op : s.op = some (.screen f)
  begA : s.begA = some beg
  w : s.w = some (widthOf s.p f)
  rb : s.rb = some (rowBytes (variantOf f) (widthOf s.p f))
  eff : s.eff = some (pictureEnd f s fin)

/-- The buffer `b` is painted up to pixel `n`, and the palette is resolved. -/
structure State.Painting (s : State) (f : Screen) (beg fin : Word16) (pal : Vector Rgb 16) (b : Buf) (n : Nat) : Prop where
  prepared : s.Prepared f beg fin
  palette : resolvesPalette f = true → s.pal = pal.map some
  buf : s.buf = some b
  frame : (blankPicture f s fin).SameFrame b
  cells : b.PaintedBelow (rowPixels f s) (pictureCell f s beg fin pal) n

/-- The group registers hold the bytes of the group at `a` and its chroma values (R95). -/
structure State.GroupRead (s : State) (beg : Word16) (a : Nat) : Prop where
  grp : s.grp = some #v[payloadByte s beg a, payloadByte s beg (a + 1), payloadByte s beg (a + 2), payloadByte s beg (a + 3)]
  kc : s.kc = some (chromaOf (payloadByte s beg a) (payloadByte s beg (a + 1)))
  jc : s.jc = some (chromaOf (payloadByte s beg (a + 2)) (payloadByte s beg (a + 3)))

/-- A group of the variant-C loop of format `f` starts at `a` (R99). -/
structure GroupAt (f : Screen) (s : State) (beg fin : Word16) (a : Nat) : Prop where
  variant : variantOf f = .c
  begins : beg.toNat ≤ a
  whole : (a - beg.toNat) % 4 = 0
  ends : a + 4 ≤ pictureEnd f s fin

/-- The block stands where pixel `n` of the picture is drawn next (R92, R94, R99). -/
inductive State.AtPixel (s : State) (f : Screen) (beg fin : Word16) : Nat → Prop
  | nibbles {a : Nat} (hpt : s.pt = .nibbles a) (hv : variantOf f = .a) (hbeg : beg.toNat ≤ a)
      (hend : a < pictureEnd f s fin) : State.AtPixel s f beg fin (2 * a)
  | packedRgb {a : Nat} (hpt : s.pt = .packedRgb a) (hv : variantOf f = .b) (hbeg : beg.toNat ≤ a)
      (hend : a < pictureEnd f s fin) : State.AtPixel s f beg fin a
  | group {a : Nat} (hpt : s.pt = .group a) (hgroup : GroupAt f s beg fin a) : State.AtPixel s f beg fin a
  | groupPixel {a : Nat} {k : Fin 4} (hpt : s.pt = .groupPixel a k) (hgroup : GroupAt f s beg fin a)
      (hread : s.GroupRead beg a) : State.AtPixel s f beg fin (a + k.val)

/-- The finished picture of an input, before the doubling. -/
structure State.Depicts (s : State) (f : Screen) (beg fin : Word16) (pal : Vector Rgb 16) (b : Buf) : Prop where
  kind : b.kind = kindOf f
  w : b.w = widthOf s.p f
  h : b.h = pictureHeight f s fin
  palette : b.pal = picturePalette f pal
  wf : b.wf = true
  cells : ∀ x y, x < b.w → y < b.h → b.read x y = some (pictureCell f s beg fin pal x y)

/-- What a screen invocation on an accepted input has done at each of its places. -/
inductive State.Paints (s : State) (f : Screen) (beg fin : Word16) (pal : Vector Rgb 16) : Prop
  /-- Nothing yet. -/
  | header (hpt : s.pt = .screenHeader) (hop : s.op = some (.screen f))
  /-- The preamble, and the palette words before this one. -/
  | palette {src : PalSource} {i : Fin 16} {m : Memory} {base : Nat} (hpt : s.pt = .paletteWord src i)
      (hr : resolvesPalette f = true) (hprep : s.Prepared f beg fin) (hbuf : s.buf = some (blankPicture f s fin))
      (hsrc : s.Chooses f beg fin src m base) (hset : ∀ j : Fin 16, j < i → s.pal[j] = some pal[j])
  /-- The preamble, the resolver, and the pixels before this one. -/
  | pixels {n : Nat} {b : Buf} (hpt : s.AtPixel f beg fin n) (hpaint : s.Painting f beg fin pal b n)
  /-- The whole picture. -/
  | ended {b : Buf} (hpt : s.pt = .dispatch) (hres : s.res = some (.image (postDouble s.cfg.double b)))
      (hshow : s.Depicts f beg fin pal b)

/-- An outcome is a next state of the invocation, with fewer than `n` items left. -/
def Reaches (f : Screen) (beg fin : Word16) (pal : Vector Rgb 16) (n : Nat) (out : Out) : Prop :=
  ∃ t, out = .next t ∧ t.Paints f beg fin pal ∧ t.pt.screenItemsLeft < n

section
variable {s : State} {f : Screen} {beg fin : Word16} {pal : Vector Rgb 16} {b : Buf} {n : Nat} {out : Out}

theorem ScreenInput.rowPixels_pos (h : ScreenInput f s beg fin) : 0 < rowPixels f s :=
  Nat.mul_pos (pixelsPerByte_pos f) h.row

theorem State.Painting.goto (h : s.Painting f beg fin pal b n) (pt : Point) : (s.goto pt).Painting f beg fin pal b n :=
  ⟨{ h.prepared with }, h.palette, h.buf, h.frame, h.cells⟩

theorem State.Painting.withGroup (h : s.Painting f beg fin pal b n) (g : Option (Vector Byte 4)) (kc jc : Option Int)
    (pt : Point) : ({ s with grp := g, kc := kc, jc := jc, pt := pt } : State).Painting f beg fin pal b n :=
  ⟨{ h.prepared with }, h.palette, h.buf, h.frame, h.cells⟩

/-- Drawing pixel `n` at its place. -/
theorem State.Painting.write (h : s.Painting f beg fin pal b n) (hrow : 0 < rowPixels f s) {x y : Nat} {v : Pixel}
    (hx : x = n % rowPixels f s) (hy : y = n / rowPixels f s) (hv : pictureCell f s beg fin pal x y = v) :
    (s.withBuf (b.write x y v)).Painting f beg fin pal (b.write x y v) (n + 1) := by
  subst hx hy
  exact {
    prepared := { h.prepared with }
    palette := h.palette
    buf := rfl
    frame := h.frame.trans (sameFrame_write ..)
    cells := h.cells.write hrow hv }

/-- The preamble and the resolver leave the blank picture, painted up to `BEG` (R90). -/
theorem State.Prepared.painting (h : s.Prepared f beg fin) (hpal : resolvesPalette f = true → s.pal = pal.map some)
    (hbuf : s.buf = some (blankPicture f s fin)) :
    s.Painting f beg fin pal (blankPicture f s fin) (pixelsPerByte f * beg.toNat) where
  prepared := h
  palette := hpal
  buf := hbuf
  frame := .refl _
  cells := new_paintedBelow _ _ _ _ fun _ _ _ hn => pictureCell_before hn

theorem State.AtPixel.ne_dispatch (h : s.AtPixel f beg fin n) : s.pt ≠ .dispatch := by
  intro hpt
  cases h with
  | nibbles hpt' | packedRgb hpt' | group hpt' | groupPixel hpt' => cases hpt.symm.trans hpt'

/-- The picture depends on the ports alone (R22). -/
theorem State.Depicts.of_samePorts {t : State} (hst : s.SamePorts t) (h : t.Depicts f beg fin pal b) :
    s.Depicts f beg fin pal b where
  kind := h.kind
  w := by rw [h.w, hst.2.2.2]
  h := by rw [h.h, pictureHeight, pictureHeight, hst.2.2.2]
  palette := h.palette
  wf := h.wf
  cells := by
    rw [← pictureCell_of_samePorts hst]
    exact h.cells

/-! ### The end of the pixel loop -/

theorem finishedBuf_eq (hpal : b.pal = []) : finishedBuf f b pal.toList = { b with pal := picturePalette f pal } := by
  rw [finishedBuf, picturePalette]
  cases kindOf f with
  | idx => rfl
  | rgba => rw [← hpal]

/-- Where nothing is left to draw, the painted buffer is the picture (R88, R90, R100 to R104). -/
theorem State.Painting.depicts (h : s.Painting f beg fin pal b n) (hleft : NothingLeft f beg (pictureEnd f s fin) n) :
    s.Depicts f beg fin pal { b with pal := picturePalette f pal } where
  kind := h.frame.1
  w := h.frame.2.1
  h := h.frame.2.2.1
  palette := rfl
  wf := h.cells.wf
  cells := by
    obtain ⟨hkind, hw, -, -⟩ := h.frame
    refine fun x y hx hy => h.cells.read_eq (fun x' y' hx' hn => ?_) hx hy
    rw [pictureCell_after hleft (hx'.trans_eq hw) hn, hkind]
    rfl

theorem State.Painting.ends (h : s.Painting f beg fin pal b n) (hleft : NothingLeft f beg (pictureEnd f s fin) n)
    (hout : EndsPicture s f b out) {k : Nat} (hk : 0 < k) : Reaches f beg fin pal k out := by
  have hcolours : kindOf f = .idx → s.pal.toList = pal.toList.map some := fun hidx => by
    rw [h.palette (resolvesPalette_of_kind hidx), Vector.toList_map]
  have hend := hout pal.toList hcolours
  rw [finishedBuf_eq h.frame.2.2.2] at hend
  have hdepicts := h.depicts hleft
  exact ⟨_, hend, .ended rfl rfl ⟨hdepicts.kind, hdepicts.w, hdepicts.h, rfl, hdepicts.wf, hdepicts.cells⟩, hk⟩

/-! ### The start of the pixel loop -/

theorem atPixel_first {pt : Point} (h : firstItem f beg.toNat (pictureEnd f s fin) = some pt) :
    (s.goto pt).AtPixel f beg fin (pixelsPerByte f * beg.toNat) := by
  unfold firstItem at h
  split at h
  next hv =>
    obtain ⟨hlt, h⟩ := Option.ite_none_right_eq_some.1 h
    cases h
    rw [pixelsPerByte_a hv]
    exact .nibbles rfl hv le_rfl hlt
  next hv =>
    obtain ⟨hlt, h⟩ := Option.ite_none_right_eq_some.1 h
    cases h
    rw [pixelsPerByte_of_ne (by simp [hv]), Nat.one_mul]
    exact .packedRgb rfl hv le_rfl hlt
  next hv =>
    obtain ⟨hle, h⟩ := Option.ite_none_right_eq_some.1 h
    cases h
    rw [pixelsPerByte_of_ne (by simp [hv]), Nat.one_mul]
    exact .group rfl ⟨hv, le_rfl, by rw [Nat.sub_self], hle⟩

theorem nothingLeft_first {eff : Nat} (h : firstItem f beg.toNat eff = none) :
    NothingLeft f beg eff (pixelsPerByte f * beg.toNat) := by
  unfold firstItem at h
  split at h
  next hv =>
    rw [pixelsPerByte_a hv]
    exact nothingLeft_a hv (Nat.le_of_not_lt (by simpa using h))
  next hv =>
    rw [pixelsPerByte_of_ne (by simp [hv]), Nat.one_mul]
    exact nothingLeft_b hv (Nat.le_of_not_lt (by simpa using h))
  next hv =>
    rw [pixelsPerByte_of_ne (by simp [hv]), Nat.one_mul]
    exact nothingLeft_c hv (Nat.lt_of_not_le (by simpa using h)) (by rw [Nat.sub_self])

theorem screenItemsLeft_first {eff : Nat} {pt : Point} (h : firstItem f beg.toNat eff = some pt) :
    pt.screenItemsLeft ≤ 0x20000 := by
  unfold firstItem at h
  split at h
  all_goals
    obtain ⟨-, h⟩ := Option.ite_none_right_eq_some.1 h
    cases h
    simp only [Point.screenItemsLeft]
    omega

theorem State.Prepared.starts (h : s.Prepared f beg fin) (hpal : resolvesPalette f = true → s.pal = pal.map some)
    (hbuf : s.buf = some (blankPicture f s fin))
    (hout : StartsPixels s f beg.toNat (pictureEnd f s fin) (blankPicture f s fin) out) {k : Nat} (hk : 0x20000 < k) :
    Reaches f beg fin pal k out := by
  have hpaint := h.painting hpal hbuf
  unfold StartsPixels at hout
  split at hout
  next pt hfirst =>
    exact ⟨_, hout, .pixels (atPixel_first hfirst) (hpaint.goto pt),
      Nat.lt_of_le_of_lt (screenItemsLeft_first (beg := beg) hfirst) hk⟩
  next hfirst => exact hpaint.ends (nothingLeft_first hfirst) hout (Nat.zero_lt_of_lt hk)

end

end Sys2Proof.Machine
end

section
/-! The items of a screen invocation on an accepted input: each of them completes, paints its pixels and leaves fewer items
(R77, R78, R86 to R99). -/

namespace Sys2Proof.Machine

section
variable {s : State} {f : Screen} {beg fin : Word16} {pal : Vector Rgb 16} {b : Buf} {n : Nat} {out : Out}

/-! ### The header and the palette -/

theorem afterPreamble_prepared (hop : s.op = some (.screen f)) : (s.afterPreamble f beg fin).Prepared f beg fin :=
  ⟨hop, rfl, rfl, rfl, rfl⟩

/-- Branch (1) of the resolver: the palette words of the payload come next (R78). -/
theorem scrhdr_reaches_embedded (hin : ScreenInput f s beg fin) (hres : ResolvedPalette f s beg fin pal)
    (hop : s.op = some (.screen f)) (hr : resolvesPalette f = true) {po : Word16} (hpo : paletteOffsetOf s.p f = some po)
    (hle : po.toNat ≤ fin.toNat) : Reaches f beg fin pal (0x20000 + 17) (exec (.scrhdr beg fin) s) := by
  have hprep := afterPreamble_prepared (beg := beg) (fin := fin) hop
  obtain ⟨hemb, -⟩ := scrhdrResolvesThePalette beg fin s f hop hr hin.order hin.payload
  obtain ⟨-, -, hword⟩ := hemb po hpo hle
  obtain ⟨hbeg, hspells⟩ := hres.1 po hpo hle
  exact ⟨_, hword hbeg (hspells.size_le hin.input),
    .palette rfl hr { hprep with } rfl (.embedded hpo hle hbeg) fun j hj => absurd hj (Fin.not_lt_zero j),
    by simp [Point.screenItemsLeft]⟩

/-- Branches (2) and (3) of the resolver: the words of `EXT` come next, or the pixel loop under the default palette (R78). -/
theorem scrhdr_reaches_fallback (hin : ScreenInput f s beg fin) (hres : ResolvedPalette f s beg fin pal)
    (hop : s.op = some (.screen f)) (hr : resolvesPalette f = true)
    (hlt : ∀ po, paletteOffsetOf s.p f = some po → fin.toNat < po.toNat) :
    Reaches f beg fin pal (0x20000 + 17) (exec (.scrhdr beg fin) s) := by
  have hprep := afterPreamble_prepared (beg := beg) (fin := fin) hop
  obtain ⟨-, hfall⟩ := scrhdrResolvesThePalette beg fin s f hop hr hin.order hin.payload
  obtain ⟨-, hword, hdefault⟩ := hfall hlt
  obtain ⟨hexternal, hbuiltin⟩ := hres.2 hlt
  cases he : s.cfg.ext with
  | some e =>
    obtain ⟨hwf, hspells⟩ := hexternal e he
    have hsize := hspells.size_le hwf
    exact ⟨_, hword e he (by omega),
      .palette rfl hr { hprep with } rfl (.external hlt he) fun j hj => absurd hj (Fin.not_lt_zero j),
      by simp [Point.screenItemsLeft]⟩
  | none =>
    exact State.Prepared.starts (s := { s.afterPreamble f beg fin with pal := s.p.defpal.map some })
      { hprep with } (fun _ => by rw [hbuiltin he]) rfl (hdefault he) (by decide)

/-- The header of an accepted input starts the palette words or the pixel loop (R78, R86 to R90). -/
theorem scrhdr_reaches (hin : ScreenInput f s beg fin) (hres : resolvesPalette f = true → ResolvedPalette f s beg fin pal)
    (hop : s.op = some (.screen f)) : Reaches f beg fin pal (0x20000 + 17) (exec (.scrhdr beg fin) s) := by
  by_cases hr : resolvesPalette f = true
  · by_cases hemb : ∃ po, paletteOffsetOf s.p f = some po ∧ po.toNat ≤ fin.toNat
    · obtain ⟨po, hpo, hle⟩ := hemb
      exact scrhdr_reaches_embedded hin (hres hr) hop hr hpo hle
    · exact scrhdr_reaches_fallback hin (hres hr) hop hr fun po hpo => Nat.lt_of_not_le fun hle => hemb ⟨po, hpo, hle⟩
  · obtain ⟨-, -, hstart⟩ := scrhdrRunsThePreamble beg fin s f hop
    exact (afterPreamble_prepared hop).starts (fun h => absurd h hr) rfl
      (hstart hin.order hin.payload (by simpa using hr)) (by decide)

theorem step_paletteWord {src : PalSource} {i : Fin 16} {m : Memory} {base : Nat} {w : Word16}
    (hsrc : s.Chooses f beg fin src m base) (hpt : s.pt = .paletteWord src i) (hw : m.read16 (base + 2 * i.val) = some w) :
    step s = exec (decodePaletteWord w) s := by
  refine takeItem_of_decode exec (hsrc.nextBytes_eq hpt) (rest := []) ?_
  simp only [placeOf, hpt]
  exact decode_paletteWord_of hw

/-- One more palette word is read, or the pixel loop begins (R77, R78). -/
theorem palword_reaches {src : PalSource} {i : Fin 16} {m : Memory} {base : Nat} {w : Word16} (hpt : s.pt = .paletteWord src i)
    (hr : resolvesPalette f = true) (hprep : s.Prepared f beg fin) (hbuf : s.buf = some (blankPicture f s fin))
    (hsrc : s.Chooses f beg fin src m base) (hset : ∀ j : Fin 16, j < i → s.pal[j] = some pal[j])
    (hw : pal[i] = palWord s.p (w.extractLsb' 4 3) (w.extractLsb' 8 3) (w.extractLsb' 0 3)) :
    Reaches f beg fin pal s.pt.screenItemsLeft (exec (decodePaletteWord w) s) := by
  obtain ⟨hnext, hlast⟩ := palwordWritesOneColour (w.extractLsb' 4 3) (w.extractLsb' 8 3) (w.extractLsb' 0 3) s src i hpt
  have hentry (j : Fin 16) (hj : j ≤ i) : (s.pal.set i (some pal[i]))[j] = some pal[j] := by
    obtain rfl | hne := eq_or_ne i j
    · simp
    · have hval : i.val ≠ j.val := fun e => hne (Fin.ext e)
      simpa [hval] using hset j (lt_of_le_of_ne hj hne.symm)
  change _ = Rgb.mk _ _ _ at hw
  rw [← hw] at hnext hlast
  rw [hpt, Point.screenItemsLeft]
  by_cases hi : i.val + 1 < 16
  · exact ⟨_, hnext hi,
      .palette rfl hr { hprep with } hbuf (hsrc.congr rfl rfl rfl) fun j hj => hentry j (Nat.le_of_lt_succ hj),
      by simp only [Point.screenItemsLeft]; omega⟩
  · refine State.Prepared.starts (s := { s with pal := s.pal.set i (some pal[i]) })
      { hprep with } (fun _ => ?_) hbuf (hlast (by omega) f beg _ _ hprep.op hprep.begA hprep.eff hbuf) (by omega)
    ext1 j hj
    simpa using hentry ⟨j, hj⟩ (Fin.le_def.2 (by simp only; omega))

/-! ### The pixels -/

theorem step_nibbles {a : Nat} (hin : ScreenInput f s beg fin) (hbegA : s.begA = some beg) (hpt : s.pt = .nibbles a)
    (hbeg : beg.toNat ≤ a) (hend : a < pictureEnd f s fin) :
    step s = exec (.nib ((payloadByte s beg a).extractLsb' 4 4) ((payloadByte s beg a).extractLsb' 0 4)) s := by
  refine takeItem_of_decode exec (bs := [payloadByte s beg a]) (rest := []) ?_ (by simp only [placeOf, hpt]; rfl)
  simp only [nextBytes, hpt, screenBytes_of hbegA hbeg, run_one, hin.read_payload hbeg hend]
  rfl

theorem step_packedRgb {a : Nat} (hin : ScreenInput f s beg fin) (hbegA : s.begA = some beg) (hpt : s.pt = .packedRgb a)
    (hbeg : beg.toNat ≤ a) (hend : a < pictureEnd f s fin) :
    step s = exec (.rgb8 ((payloadByte s beg a).extractLsb' 5 3) ((payloadByte s beg a).extractLsb' 2 3)
      ((payloadByte s beg a).extractLsb' 0 2)) s := by
  refine takeItem_of_decode exec (bs := [payloadByte s beg a]) (rest := []) ?_ (by simp only [placeOf, hpt]; rfl)
  simp only [nextBytes, hpt, screenBytes_of hbegA hbeg, run_one, hin.read_payload hbeg hend]
  rfl

theorem step_group {a : Nat} (hin : ScreenInput f s beg fin) (hbegA : s.begA = some beg) (hpt : s.pt = .group a)
    (hgroup : GroupAt f s beg fin a) :
    step s = exec (.yjkgrp (payloadByte s beg a) (payloadByte s beg (a + 1)) (payloadByte s beg (a + 2))
      (payloadByte s beg (a + 3))) s := by
  refine takeItem_of_decode exec (bs := s.d.run (7 + (a - beg.toNat)) 4) (rest := []) ?_ ?_
  · simp only [nextBytes, hpt, screenBytes_of hbegA hgroup.begins]
  · rw [hin.run_group hgroup.begins hgroup.ends]
    simp only [placeOf, hpt]
    rfl

theorem State.GroupRead.getElem {a : Nat} {g : Vector Byte 4} (h : s.GroupRead beg a) (hg : s.grp = some g) (k : Fin 4) :
    g[k.val] = payloadByte s beg (a + k.val) := by
  obtain rfl := Option.some.inj (h.grp.symm.trans hg)
  match k with
  | 0 | 1 | 2 | 3 => rfl

theorem escapes_eq (hop : s.op = some (.screen f)) : escapes s = yaeOf f := by
  simp only [escapes, hop]

theorem step_groupPixel {a : Nat} {k : Fin 4} (hop : s.op = some (.screen f)) (hpt : s.pt = .groupPixel a k)
    (hread : s.GroupRead beg a) : step s = exec (decodeGroupPixel (yaeOf f) (payloadByte s beg (a + k.val))) s := by
  refine takeItem_of_decode exec (rest := []) (nextBytes_groupPixel hpt hread.grp) ?_
  rw [hread.getElem hread.grp k]
  simp only [placeOf, hpt, escapes_eq hop]
  rfl

/-- The two pixels of a byte are painted in the indices of its nibbles (R91). -/
theorem State.Painting.writeNibbles {a : Nat} (hpaint : s.Painting f beg fin pal b (2 * a)) (hv : variantOf f = .a)
    (hbeg : beg.toNat ≤ a) (hend : a < pictureEnd f s fin) {r : Nat} (hr : rowBytes (variantOf f) (widthOf s.p f) = r)
    (hrow : 0 < r) :
    let b' := (b.write (2 * (a % r)) (a / r) (.idx ((payloadByte s beg a).extractLsb' 4 4))).write (2 * (a % r) + 1) (a / r)
      (.idx ((payloadByte s beg a).extractLsb' 0 4))
    (s.withBuf b').Painting f beg fin pal b' (2 * (a + 1)) := by
  have hpixels : rowPixels f s = 2 * r := by rw [rowPixels_a hv, hr]
  have hpos : 0 < rowPixels f s := by omega
  have hmod : a % r < r := Nat.mod_lt a hrow
  have haddress : a / r * r + a % r = a := Nat.div_add_mod' a r
  have hnumber : a / r * (2 * r) + 2 * (a % r) = 2 * a := by rw [Nat.mul_left_comm, ← Nat.mul_add, haddress]
  have hhigh : pictureCell f s beg fin pal (2 * (a % r)) (a / r) = .idx ((payloadByte s beg a).extractLsb' 4 4) := by
    have hhalf : 2 * (a % r) / 2 = a % r := by omega
    rw [pictureCell_a hv, cellA_eq (by omega) (by rw [hr, hhalf, haddress]) hbeg hend, if_pos (by omega)]
  have hlow : pictureCell f s beg fin pal (2 * (a % r) + 1) (a / r) = .idx ((payloadByte s beg a).extractLsb' 0 4) := by
    have hhalf : (2 * (a % r) + 1) / 2 = a % r := by omega
    rw [pictureCell_a hv, cellA_eq (by omega) (by rw [hr, hhalf, haddress]) hbeg hend, if_neg (by omega)]
  have hnumber' : a / r * (2 * r) + (2 * (a % r) + 1) = 2 * a + 1 := by omega
  rw [← hpixels] at hnumber hnumber'
  obtain ⟨hx, hy⟩ := (number_eq_iff (by omega)).1 hnumber
  obtain ⟨hx', hy'⟩ := (number_eq_iff (by omega)).1 hnumber'
  exact (hpaint.write hpos hx hy hhigh).write hpos hx' hy' hlow

/-- A byte of variant A paints two pixels (R91, R92). -/
theorem nibbles_reaches {a : Nat} (hin : ScreenInput f s beg fin) (hpaint : s.Painting f beg fin pal b (2 * a))
    (hpt : s.pt = .nibbles a) (hv : variantOf f = .a) (hbeg : beg.toNat ≤ a) (hend : a < pictureEnd f s fin) :
    Reaches f beg fin pal s.pt.screenItemsLeft (step s) := by
  have hprep := hpaint.prepared
  obtain ⟨hplace, hnext, hlast⟩ := nibDrawsTwoPixels ((payloadByte s beg a).extractLsb' 4 4)
    ((payloadByte s beg a).extractLsb' 0 4) s a _ _ b hpt hprep.rb hpaint.buf hprep.eff
  rw [← step_nibbles hin hprep.begA hpt hbeg hend] at hnext hlast
  obtain ⟨hquot, hrem⟩ := hplace hin.row
  rw [hquot, hrem] at hnext hlast
  have hpaint' := hpaint.writeNibbles hv hbeg hend rfl hin.row
  have hbound := pictureEnd_lt f s fin
  rw [hpt]
  by_cases hlt : a + 1 < pictureEnd f s fin
  · exact ⟨_, hnext hlt, .pixels (.nibbles rfl hv (by omega) hlt) (hpaint'.goto (.nibbles (a + 1))),
      by simp only [Point.screenItemsLeft]; omega⟩
  · exact hpaint'.ends (nothingLeft_a hv (Nat.le_of_not_lt hlt)) (hlast (Nat.le_of_not_lt hlt) f hprep.op)
      (by simp only [Point.screenItemsLeft]; omega)

/-- A byte of variant B paints one pixel (R93, R94). -/
theorem packedRgb_reaches {a : Nat} (hin : ScreenInput f s beg fin) (hpaint : s.Painting f beg fin pal b a)
    (hpt : s.pt = .packedRgb a) (hv : variantOf f = .b) (hbeg : beg.toNat ≤ a) (hend : a < pictureEnd f s fin) :
    Reaches f beg fin pal s.pt.screenItemsLeft (step s) := by
  have hne : variantOf f ≠ .a := by simp [hv]
  have hprep := hpaint.prepared
  obtain ⟨hplace, hnext, hlast⟩ := rgb8DrawsOnePixel ((payloadByte s beg a).extractLsb' 5 3)
    ((payloadByte s beg a).extractLsb' 2 3) ((payloadByte s beg a).extractLsb' 0 2) s a _ _ b hpt hprep.w hpaint.buf hprep.eff
  rw [← step_packedRgb hin hprep.begA hpt hbeg hend] at hnext hlast
  have hrow := hin.rowPixels_pos
  have hpixels := rowPixels_of_ne (s := s) hne
  obtain ⟨hquot, hrem⟩ := hplace (hpixels ▸ hrow)
  rw [hquot, hrem] at hnext hlast
  have hcell := cellB_eq (f := f) (s := s) (Nat.div_add_mod' a (widthOf s.p f)) hbeg hend
  rw [← pictureCell_b (pal := pal) hv] at hcell
  have hpaint' := hpaint.write hrow (by rw [hpixels]) (by rw [hpixels]) hcell
  have hbound := pictureEnd_lt f s fin
  rw [hpt]
  by_cases hlt : a + 1 < pictureEnd f s fin
  · exact ⟨_, hnext hlt, .pixels (.packedRgb rfl hv (by omega) hlt) (hpaint'.goto (.packedRgb (a + 1))),
      by simp only [Point.screenItemsLeft]; omega⟩
  · exact hpaint'.ends (nothingLeft_b hv (Nat.le_of_not_lt hlt)) (hlast (Nat.le_of_not_lt hlt) f hprep.op)
      (by simp only [Point.screenItemsLeft]; omega)

/-- A group is read before its pixels are painted (R95). -/
theorem group_reaches {a : Nat} (hin : ScreenInput f s beg fin) (hpaint : s.Painting f beg fin pal b a) (hpt : s.pt = .group a)
    (hgroup : GroupAt f s beg fin a) : Reaches f beg fin pal s.pt.screenItemsLeft (step s) := by
  have hbound := pictureEnd_lt f s fin
  have hends := hgroup.ends
  rw [step_group hin hpaint.prepared.begA hpt hgroup, yjkgrpReadsChroma _ _ _ _ s a hpt, hpt]
  exact ⟨_, rfl,
    .pixels (.groupPixel rfl ⟨hgroup.variant, hgroup.begins, hgroup.whole, hgroup.ends⟩ ⟨rfl, rfl, rfl⟩)
      (hpaint.withGroup _ _ _ (.groupPixel a 0)),
    by simp only [Point.screenItemsLeft]; omega⟩

/-- Bit 3 of a pixel byte makes its luma odd, and the bits above it are half of the luma (R59, R96). -/
theorem luma_odd_iff (v : Byte) : v.getLsbD 3 = true ↔ (v.extractLsb' 3 5).toNat % 2 = 1 := by
  rw [BitVec.getLsbD, BitVec.extractLsb'_toNat, Nat.testBit_eq_decide_div_mod_eq, Nat.shiftRight_eq_div_pow, decide_eq_true_iff]
  omega

theorem escape_index (v : Byte) : (v.extractLsb' 4 4).toNat = (v.extractLsb' 3 5).toNat / 2 := by
  simp only [BitVec.extractLsb'_toNat, Nat.shiftRight_eq_div_pow]
  omega

/-- Pixel `k` of the group is drawn in its colour, by escape or by luma (R96, R97, R99). -/
theorem groupPixel_draws {a : Nat} {k : Fin 4} (hpaint : s.Painting f beg fin pal b n) (hpt : s.pt = .groupPixel a k)
    (hread : s.GroupRead beg a) :
    DrawsGroupPixel s a k (widthOf s.p f) b (groupColour f s beg pal a k.val) (step s) := by
  obtain ⟨hyae, hyjk⟩ := groupPixelDrawsOneCell s a _ k b hpt hpaint.prepared.w hpaint.buf
  rw [step_groupPixel hpaint.prepared.op hpt hread, decodeGroupPixel]
  split
  next hesc =>
    rw [Bool.and_eq_true, luma_odd_iff] at hesc
    rw [groupColour_escape hesc]
    have hres : resolvesPalette f = true :=
      resolvesPalette_of_escapes hpaint.prepared.op ((escapes_eq hpaint.prepared.op).trans hesc.1)
    refine hyae _ _ ?_
    simp only [hpaint.palette hres, Vector.getElem_map, escape_index]
  next hesc =>
    rw [Bool.and_eq_true, luma_odd_iff] at hesc
    rw [groupColour_luma hesc]
    exact hyjk _ _ _ hread.jc hread.kc

/-- A byte of variant C paints one pixel of its group (R96 to R99). -/
theorem groupPixel_reaches {a : Nat} {k : Fin 4} (hin : ScreenInput f s beg fin)
    (hpaint : s.Painting f beg fin pal b (a + k.val)) (hpt : s.pt = .groupPixel a k) (hgroup : GroupAt f s beg fin a)
    (hread : s.GroupRead beg a) : Reaches f beg fin pal s.pt.screenItemsLeft (step s) := by
  obtain ⟨hv, hbeg, hwhole, hend⟩ := hgroup
  have hne : variantOf f ≠ .a := by simp [hv]
  have hrow := hin.rowPixels_pos
  have hpixels := rowPixels_of_ne (s := s) hne
  have hpos : 0 < widthOf s.p f := hpixels ▸ hrow
  obtain ⟨hnext, hlast⟩ := groupPixel_draws hpaint hpt hread
  rw [quot_of_pos _ hpos, rem_of_pos _ hpos] at hnext hlast
  have hcell := cellC_eq (f := f) (s := s) (pal := pal) (Nat.div_add_mod' (a + k.val) (widthOf s.p f)) k.isLt hbeg hwhole hend
  rw [← pictureCell_c (pal := pal) hv] at hcell
  have hpaint' := hpaint.write hrow (by rw [hpixels]) (by rw [hpixels]) hcell
  have hbound := pictureEnd_lt f s fin
  rw [hpt]
  by_cases hk : k.val + 1 < 4
  · exact ⟨_, hnext hk,
      .pixels (.groupPixel (k := ⟨k.val + 1, hk⟩) rfl ⟨hv, hbeg, hwhole, hend⟩ ⟨hread.grp, hread.kc, hread.jc⟩)
        (hpaint'.goto (.groupPixel a ⟨k.val + 1, hk⟩)),
      by simp only [Point.screenItemsLeft]; omega⟩
  · have hk3 : k.val = 3 := by omega
    obtain ⟨hmore, hdone⟩ := hlast hk3 _ hpaint.prepared.eff
    have hcount : a + k.val + 1 = a + 4 := by omega
    rw [hcount] at hpaint'
    by_cases hle : a + 8 ≤ pictureEnd f s fin
    · exact ⟨_, hmore hle, .pixels (.group rfl ⟨hv, by omega, by omega, hle⟩) (hpaint'.goto (.group (a + 4))),
        by simp only [Point.screenItemsLeft]; omega⟩
    · exact hpaint'.ends (nothingLeft_c hv (Nat.lt_of_not_le hle) (by omega))
        (hdone (Nat.lt_of_not_le hle) f hpaint.prepared.op) (by simp only [Point.screenItemsLeft]; omega)

end

end Sys2Proof.Machine
end

section
/-! The whole screen invocation: its items run to the picture that the input spells (R85 to R104, R171). -/

namespace Sys2Proof.Machine

section
variable {s : State} {f : Screen} {beg fin : Word16} {pal : Vector Rgb 16}

/-- Every item of a screen invocation on an accepted input completes. -/
theorem step_reaches (hin : ScreenInput f s beg fin) (hres : resolvesPalette f = true → ResolvedPalette f s beg fin pal)
    (h : s.Paints f beg fin pal) (hs : s.pt ≠ .dispatch) : Reaches f beg fin pal s.pt.screenItemsLeft (step s) := by
  cases h with
  | header hpt hop =>
    have hstep : step s = exec (.scrhdr beg fin) s := by
      refine takeItem_of_decode exec (bs := s.d.run 0 7) (rest := []) (by simp only [nextBytes, hpt]) ?_
      simp only [placeOf, hpt]
      exact decode_screenHeader_of hin.input hin.header hin.begAt hin.endAt
    rw [hstep, hpt]
    exact scrhdr_reaches hin hres hop
  | palette hpt hr hprep hbuf hsrc hset =>
    obtain ⟨w, hread, hcolour⟩ := (hres hr).spells hsrc _
    rw [step_paletteWord hsrc hpt hread]
    exact palword_reaches hpt hr hprep hbuf hsrc hset hcolour
  | pixels hplace hpaint =>
    cases hplace with
    | nibbles hpt hv hbeg hend => exact nibbles_reaches hin hpaint hpt hv hbeg hend
    | packedRgb hpt hv hbeg hend => exact packedRgb_reaches hin hpaint hpt hv hbeg hend
    | group hpt hgroup => exact group_reaches hin hpaint hpt hgroup
    | groupPixel hpt hgroup hread => exact groupPixel_reaches hin hpaint hpt hgroup hread
  | ended hpt => exact absurd hpt hs

/-- A whole screen invocation on an accepted input delivers the picture that its input spells. -/
theorem exec_screen_draws (hin : ScreenInput f s beg fin)
    (hres : resolvesPalette f = true → ResolvedPalette f s beg fin pal) :
    Draws s (exec (decodeTag (.legal (.screen f))) s) (kindOf f) (widthOf s.p f) (pictureHeight f s fin)
      (picturePalette f pal) (pictureCell f s beg fin pal) := by
  have hkeeps : ∀ u : State, (s.SamePorts u ∧ u.Paints f beg fin pal) → u.pt ≠ .dispatch →
      ∃ t, step u = .next t ∧ (s.SamePorts t ∧ t.Paints f beg fin pal) ∧ t.pt.screenItemsLeft < u.pt.screenItemsLeft := by
    rintro u ⟨hports, hu⟩ hpt
    obtain ⟨t, hstep, ht, hlt⟩ := step_reaches (hin.of_samePorts hports) (fun hr => (hres hr).of_samePorts hports) hu hpt
    exact ⟨t, hstep, ⟨hports.trans (step_samePorts_of_item hpt hstep), ht⟩, hlt⟩
  have hstart : s.SamePorts (s.enter (.screen f)) ∧ (s.enter (.screen f)).Paints f beg fin pal :=
    ⟨⟨rfl, rfl, rfl, rfl⟩, .header rfl rfl⟩
  have hbound : (s.enter (.screen f)).pt.screenItemsLeft ≤ itemBound s := by
    simp only [State.enter, entryPoint, Point.screenItemsLeft, itemBound]
    omega
  obtain ⟨t, hrun, ⟨hports, hpaints⟩, hpt⟩ := runItems_ends hkeeps hstart hbound
  cases hpaints with
  | ended _ himage hshow =>
    have hcfg : t.cfg = s.cfg := hports.2.2.1
    obtain ⟨hkind, hw, hh, hpal, hwf, hcells⟩ := hshow.of_samePorts hports
    rw [hw, hh] at hcells
    exact ⟨t, _, (exec_legal _ s).trans hrun, hports, hpt, hcfg ▸ himage, hkind, hw, hh, hpal, hwf, hcells⟩
  | header hpt' => cases hpt'.symm.trans hpt
  | palette hpt' => cases hpt'.symm.trans hpt
  | pixels hplace => exact absurd hpt hplace.ne_dispatch

end

/-- Settles O55: SC5 and SC7 are the formats of variant A. -/
theorem nibblePicturesAreDrawn : Obligations.NibblePicturesAreDrawn :=
  fun _ _ _ _ => ⟨fun hin hres => exec_screen_draws hin fun _ => hres, fun hin hres => exec_screen_draws hin fun _ => hres⟩

/-- Settles O56: SC8 resolves no palette, so any palette will do. -/
theorem packedPicturesAreDrawn : Obligations.PackedPicturesAreDrawn :=
  fun s _ _ hin => exec_screen_draws (pal := s.p.defpal) hin nofun

/-- Settles O57: S10 and S12 are the formats of variant C, and S12 resolves no palette. -/
theorem lumaPicturesAreDrawn : Obligations.LumaPicturesAreDrawn :=
  fun _ _ _ _ => ⟨fun hin hres => exec_screen_draws hin fun _ => hres, fun hin => exec_screen_draws hin nofun⟩

end Sys2Proof.Machine
end

section
/-! The items of the stamp unpacker, where the registers they read are set (R105 to R108). -/

namespace Sys2Proof.Machine

/-- The registers that `StpHdr` writes (R105). -/
def State.afterStphdr (s : State) (sw sh : Word16) : State :=
  { s with sw := some sw.toNat, sh := some sh.toNat, n := some (sw.toNat * sh.toNat) }

/-- The buffer of a stamp before its first pixel (R106, R108). -/
def blankStamp (sw sh : Word16) : Buf := Buf.new .idx sw.toNat sh.toNat stampPalette

theorem execStphdr_of_cut {s : State} {sw sh : Word16} (hcut : s.d.size < 4 + ceilDiv (sw.toNat * sh.toNat) 4) :
    execStphdr sw sh s = .next ((s.afterStphdr sw sh).raise .truncatedPayload (sw.toNat * sh.toNat : Nat)) :=
  if_pos hcut

theorem execStphdr_of_accepted {s : State} {sw sh : Word16} (hsize : 4 + ceilDiv (sw.toNat * sh.toNat) 4 ≤ s.d.size) :
    execStphdr sw sh s = stampFrom ((s.afterStphdr sw sh).withBuf (blankStamp sw sh)) 0 :=
  if_neg (Nat.not_lt.2 hsize)

/-- The stamp loop goes on, or ends the stamp (R108). -/
theorem stampFrom_of {s : State} {n : Nat} {b : Buf} (hn : s.n = some n) (hb : s.buf = some b) (i : Nat) :
    stampFrom s i = if i < n then .next (s.goto (.stampPair i)) else .next (s.deliverImage (rowDup b)) := by
  rw [stampFrom, need_of hn, finishStamp, need_of hb]

/-- Settles O40: a cut payload fails, and else the loop starts at pixel 0 by `stampFrom_of`. -/
theorem stphdrStartsTheStamp : Obligations.StphdrStartsTheStamp := by
  intro sw sh s n s' b
  have hloop : stampFrom (s'.withBuf b) 0 =
      if 0 < n then .next ((s'.withBuf b).goto (.stampPair 0)) else .next ((s'.withBuf b).deliverImage (rowDup b)) :=
    stampFrom_of rfl rfl 0
  refine ⟨fun hcut => execStphdr_of_cut hcut, fun hsize hpos => ?_, fun hsize hzero => ?_⟩
  · exact (execStphdr_of_accepted hsize).trans (hloop.trans (if_pos hpos))
  · exact (execStphdr_of_accepted hsize).trans (hloop.trans (if_neg (by omega)))

theorem execStphi_of_refuse {s : State} (h : s.p.stampHigh = .refuse) (low : BitVec 1) :
    execStphi low s = .next (s.refuse .stampValue) := by
  rw [execStphi, h]

theorem execStphi_of_draw {s : State} {two three : BitVec 1} (h : s.p.stampHigh = .draw two three) (low : BitVec 1) :
    execStphi low s = drawStamp ((if low = 0 then two else three).setWidth 4) s := by
  rw [execStphi, h]

/-- Settles O41: every item that draws is `drawStamp` with its index. -/
theorem stampPairDrawsOneCell : Obligations.StampPairDrawsOneCell := by
  intro s i w n b hpt hw hb hn
  have hdraw (v : BitVec 4) : DrawsStampPixel s i w n b v (drawStamp v s) := drawStamp_of hpt hw hb hn
  refine ⟨hdraw 1, hdraw 0, fun low => ⟨fun hrefuse => execStphi_of_refuse hrefuse low, fun two three haction => ?_⟩⟩
  have hexec : exec (.stphi low) s = drawStamp ((if low = 0 then two else three).setWidth 4) s :=
    execStphi_of_draw haction low
  rw [hexec]
  exact hdraw _

end Sys2Proof.Machine
end

section
/-! The pairs of a stamp: which item each of them spells, and what it shows (R61, R106, R107). -/

namespace Sys2Proof

/-- The values 0 and 1 spell the two items that draw (R61). -/
theorem decodeStampPair_of_lt {v : Byte} (h : v.toNat < 2) : decodeStampPair v = if v.toNat = 0 then .stp0 else .stp1 := by
  obtain rfl | rfl : v = 0 ∨ v = 1 := by bv_omega
  · rfl
  · rfl

/-- The fields of a stamp header that is there (R61). -/
theorem decode_stampHeader_of {m : Machine.Memory} {sw sh : Word16} (hsw : m.read16 0 = some sw) (hsh : m.read16 2 = some sh) :
    decode .stampHeader (m.run 0 4) = .ok (.stphdr sw sh, []) := by
  obtain ⟨b0, b1, h0, h1, rfl⟩ := Machine.exists_bytes_of_read16 hsw
  obtain ⟨b2, b3, h2, h3, rfl⟩ := Machine.exists_bytes_of_read16 hsh
  rw [Machine.run_succ_of_read 3 h0, Machine.run_succ_of_read 2 h1, Machine.run_succ_of_read 1 h2,
    Machine.run_succ_of_read 0 h3]
  rfl

end Sys2Proof

namespace Sys2Proof.Machine

/-- The shift and the mask of R107 as arithmetic: the most significant pair comes first. -/
theorem stampPairBits_toNat (i : Nat) (v : Byte) : (stampPairBits i v).toNat = v.toNat / 4 ^ (3 - i % 4) % 4 := by
  have hshift : 2 ^ (6 - 2 * (i % 4)) = 4 ^ (3 - i % 4) := by
    rw [show 6 - 2 * (i % 4) = 2 * (3 - i % 4) by omega, Nat.pow_mul]
  rw [stampPairBits, BitVec.toNat_and, BitVec.toNat_ushiftRight, Nat.shiftRight_eq_div_pow, hshift]
  exact Nat.and_two_pow_sub_one_eq_mod _ 2

/-- What cell `(x, y)` of a stamp shows before the row duplication (R106, R107). -/
def stampCell (s : State) (w x y : Nat) : Pixel := .idx (if stampValue s (y * w + x) = 0 then 1 else 0)

/-- An input that STP draws: the header and the payload are there, and every pair is 0 or 1 (R61, R105, R107). -/
structure StampInput (s : State) (sw sh : Word16) : Prop where
  input : s.d.wf
  width : s.d.read16 0 = some sw
  height : s.d.read16 2 = some sh
  payload : 4 + (sw.toNat * sh.toNat + 3) / 4 ≤ s.d.size
  values : ∀ i, i < sw.toNat * sh.toNat → stampValue s i < 2

section
variable {s t : State} {sw sh : Word16} {i : Nat}

/-- A stamp depends on `D` alone (R22). -/
theorem stampValue_of_samePorts (h : s.SamePorts t) : stampValue t = stampValue s := by
  obtain ⟨-, hd, -, -⟩ := h
  funext i
  rw [stampValue, stampValue, hd]

theorem stampCell_of_samePorts (h : s.SamePorts t) : stampCell t = stampCell s := by
  funext w x y
  rw [stampCell, stampCell, stampValue_of_samePorts h]

theorem StampInput.of_samePorts (hst : s.SamePorts t) (h : StampInput s sw sh) : StampInput t sw sh := by
  have hvalue := stampValue_of_samePorts hst
  obtain ⟨-, hd, -, -⟩ := hst
  obtain ⟨hinput, hwidth, hheight, hpayload, hvalues⟩ := h
  rw [← hd] at hinput hwidth hheight hpayload
  rw [← hvalue] at hvalues
  exact ⟨hinput, hwidth, hheight, hpayload, hvalues⟩

/-- A step at the header runs it (R105). -/
theorem step_stampHeader (hin : StampInput s sw sh) (hpt : s.pt = .stampHeader) : step s = exec (.stphdr sw sh) s := by
  refine takeItem_of_decode exec (bs := s.d.run 0 4) (rest := []) (by simp only [nextBytes, hpt]) ?_
  simp only [placeOf, hpt]
  exact decode_stampHeader_of hin.width hin.height

/-- A step at a pixel runs the item that its pair spells (R61, R107). -/
theorem step_stampPair (hin : StampInput s sw sh) (hpt : s.pt = .stampPair i) (hi : i < sw.toNat * sh.toNat) :
    step s = exec (if stampValue s i = 0 then .stp0 else .stp1) s := by
  have hpay := hin.payload
  obtain ⟨v, hv⟩ := exists_read hin.input (off := 4 + i / 4) (by omega)
  have hvalue : (stampPairBits i v).toNat = stampValue s i := by
    rw [stampPairBits_toNat, stampValue, hv]
    rfl
  refine takeItem_of_decode exec (bs := [stampPairBits i v]) (rest := []) ?_ ?_
  · simp only [nextBytes, hpt, run_one, hv]
    rfl
  · simp only [placeOf, hpt, decode]
    rw [decodeStampPair_of_lt (hvalue ▸ hin.values i hi), hvalue]

end

end Sys2Proof.Machine
end

section
/-! The whole stamp invocation: its items run to the stamp that the input spells (R105 to R108, R171). -/

namespace Sys2Proof.Machine

/-- At most so many items of a stamp of `n` pixels are left: the header, and one for each pixel (R108). -/
def Point.stampItemsLeft (n : Nat) : Point → Nat
  | .stampHeader => n + 1
  | .stampPair i => n - i
  | _ => 0

/-- The buffer `b` has the frame of the stamp and is painted up to pixel `i`. -/
structure State.StampPainted (s : State) (sw sh : Word16) (b : Buf) (i : Nat) : Prop where
  frame : (blankStamp sw sh).SameFrame b
  cells : b.PaintedBelow sw.toNat (stampCell s sw.toNat) i

/-- What a stamp invocation on an accepted input has done at each of its places. -/
inductive State.PaintsStamp (s : State) (sw sh : Word16) : Prop
  /-- Nothing yet. -/
  | header (hpt : s.pt = .stampHeader)
  /-- The header, and the pixels before this one. -/
  | pixels {i : Nat} {b : Buf} (hpt : s.pt = .stampPair i) (hi : i < sw.toNat * sh.toNat) (hsw : s.sw = some sw.toNat)
      (hn : s.n = some (sw.toNat * sh.toNat)) (hb : s.buf = some b) (hpaint : s.StampPainted sw sh b i)
  /-- The whole stamp. -/
  | ended {b : Buf} (hpt : s.pt = .dispatch) (hres : s.res = some (.image (postDouble s.cfg.double (rowDup b))))
      (hpaint : s.StampPainted sw sh b (sw.toNat * sh.toNat))

/-- An outcome is a next state of the invocation, with fewer than `k` items left. -/
def ReachesStamp (sw sh : Word16) (k : Nat) (out : Out) : Prop :=
  ∃ t, out = .next t ∧ t.PaintsStamp sw sh ∧ t.pt.stampItemsLeft (sw.toNat * sh.toNat) < k

section
variable {s t : State} {sw sh : Word16} {b : Buf} {i : Nat}

theorem blankStamp_painted (s : State) (sw sh : Word16) : s.StampPainted sw sh (blankStamp sw sh) 0 where
  frame := .refl _
  cells := new_paintedBelow _ _ _ _ fun _ _ _ hn => absurd hn (Nat.not_lt_zero _)

theorem State.StampPainted.geometry (h : s.StampPainted sw sh b i) :
    b.kind = .idx ∧ b.w = sw.toNat ∧ b.h = sh.toNat ∧ b.pal = stampPalette :=
  h.frame

/-- Drawing pixel `i` at its place (R107). -/
theorem State.StampPainted.write (h : s.StampPainted sw sh b i) (hrow : 0 < sw.toNat) :
    s.StampPainted sw sh
      (b.write (i % sw.toNat) (i / sw.toNat) (.idx (if stampValue s i = 0 then 1 else 0))) (i + 1) where
  frame := h.frame.trans (sameFrame_write ..)
  cells := h.cells.write hrow (by rw [stampCell, Nat.div_add_mod'])

theorem State.StampPainted.of_samePorts (hst : s.SamePorts t) (h : t.StampPainted sw sh b i) : s.StampPainted sw sh b i where
  frame := h.frame
  cells := by
    rw [← stampCell_of_samePorts hst]
    exact h.cells

/-- Every cell of a stamp has a pixel, so that none keeps the fill (R108). -/
theorem State.StampPainted.read_eq (h : s.StampPainted sw sh b (sw.toNat * sh.toNat)) {x y : Nat} (hx : x < sw.toNat)
    (hy : y < sh.toNat) : b.read x y = some (stampCell s sw.toNat x y) := by
  obtain ⟨-, hw, hh, -⟩ := h.geometry
  rw [h.cells.cells x y (hw ▸ hx) (hh ▸ hy), if_pos ⟨hx, cell_number_lt hx hy⟩]

/-- The header of an accepted input starts the pixels, or ends a stamp that has none (R105, R108). -/
theorem stampHeader_reaches (hin : StampInput s sw sh) (hpt : s.pt = .stampHeader) :
    ReachesStamp sw sh (s.pt.stampItemsLeft (sw.toNat * sh.toNat)) (step s) := by
  obtain ⟨-, hstart, hempty⟩ := stphdrStartsTheStamp sw sh s
  rw [step_stampHeader hin hpt, hpt]
  by_cases hpos : 0 < sw.toNat * sh.toNat
  · exact ⟨_, hstart hin.payload hpos, .pixels rfl hpos rfl rfl rfl (blankStamp_painted _ sw sh), Nat.lt_succ_self _⟩
  · have hzero : sw.toNat * sh.toNat = 0 := by omega
    exact ⟨_, hempty hin.payload hzero, .ended rfl rfl (hzero ▸ blankStamp_painted _ sw sh), Nat.succ_pos _⟩

/-- A pair of an accepted input draws the cell of its pixel (R106, R107). -/
theorem stampPair_draws (hin : StampInput s sw sh) (hpt : s.pt = .stampPair i) (hi : i < sw.toNat * sh.toNat)
    (hsw : s.sw = some sw.toNat) (hn : s.n = some (sw.toNat * sh.toNat)) (hb : s.buf = some b) :
    DrawsStampPixel s i sw.toNat (sw.toNat * sh.toNat) b (if stampValue s i = 0 then 1 else 0) (step s) := by
  obtain ⟨hwhite, hblack, -⟩ := stampPairDrawsOneCell s i _ _ b hpt hsw hb hn
  rw [step_stampPair hin hpt hi]
  split
  next => exact hwhite
  next => exact hblack

/-- A pixel is painted, and the next one follows, or the end (R107, R108). -/
theorem stampPair_reaches (hin : StampInput s sw sh) (hpt : s.pt = .stampPair i) (hi : i < sw.toNat * sh.toNat)
    (hsw : s.sw = some sw.toNat) (hn : s.n = some (sw.toNat * sh.toNat)) (hb : s.buf = some b)
    (hpaint : s.StampPainted sw sh b i) : ReachesStamp sw sh (s.pt.stampItemsLeft (sw.toNat * sh.toNat)) (step s) := by
  have hrow : 0 < sw.toNat := Nat.pos_of_mul_pos_right (Nat.zero_lt_of_lt hi)
  obtain ⟨hnext, hlast⟩ := stampPair_draws hin hpt hi hsw hn hb
  rw [quot_of_pos _ hrow, rem_of_pos _ hrow] at hnext hlast
  have hpaint' := hpaint.write hrow
  rw [hpt]
  by_cases hlt : i + 1 < sw.toNat * sh.toNat
  · exact ⟨_, hnext hlt, .pixels rfl hlt hsw hn rfl { hpaint' with }, Nat.sub_lt_sub_left hi (Nat.lt_succ_self i)⟩
  · have hdone : i + 1 = sw.toNat * sh.toNat := by omega
    rw [hdone] at hpaint'
    exact ⟨_, hlast hdone.ge, .ended rfl rfl { hpaint' with }, Nat.sub_pos_of_lt hi⟩

/-- Every item of a stamp invocation on an accepted input completes. -/
theorem step_reachesStamp (hin : StampInput s sw sh) (h : s.PaintsStamp sw sh) (hs : s.pt ≠ .dispatch) :
    ReachesStamp sw sh (s.pt.stampItemsLeft (sw.toNat * sh.toNat)) (step s) := by
  cases h with
  | header hpt => exact stampHeader_reaches hin hpt
  | pixels hpt hi hsw hn hb hpaint => exact stampPair_reaches hin hpt hi hsw hn hb hpaint
  | ended hpt => exact absurd hpt hs

/-- A whole stamp invocation on an accepted input paints every pixel, and delivers the buffer with its rows duplicated. -/
theorem exec_stp_paints (hin : StampInput s sw sh) :
    ∃ t b, exec .stp s = .next t ∧ s.SamePorts t ∧ t.pt = .dispatch ∧
      t.res = some (.image (postDouble s.cfg.double (rowDup b))) ∧ s.StampPainted sw sh b (sw.toNat * sh.toNat) := by
  have hkeeps : ∀ u : State, (s.SamePorts u ∧ u.PaintsStamp sw sh) → u.pt ≠ .dispatch →
      ∃ t, step u = .next t ∧ (s.SamePorts t ∧ t.PaintsStamp sw sh) ∧
        t.pt.stampItemsLeft (sw.toNat * sh.toNat) < u.pt.stampItemsLeft (sw.toNat * sh.toNat) := by
    rintro u ⟨hports, hu⟩ hpt
    obtain ⟨t, hstep, ht, hlt⟩ := step_reachesStamp (hin.of_samePorts hports) hu hpt
    exact ⟨t, hstep, ⟨hports.trans (step_samePorts_of_item hpt hstep), ht⟩, hlt⟩
  have hstart : s.SamePorts (s.enter .stp) ∧ (s.enter .stp).PaintsStamp sw sh := ⟨⟨rfl, rfl, rfl, rfl⟩, .header rfl⟩
  have hbound : (s.enter .stp).pt.stampItemsLeft (sw.toNat * sh.toNat) ≤ itemBound s := by
    have hpay := hin.payload
    simp only [State.enter, entryPoint, Point.stampItemsLeft, itemBound]
    omega
  obtain ⟨t, hrun, ⟨hports, hpaints⟩, hpt⟩ := runItems_ends hkeeps hstart hbound
  cases hpaints with
  | ended _ hres hpaint =>
    have hcfg : t.cfg = s.cfg := hports.2.2.1
    exact ⟨t, _, hrun, hports, hpt, hcfg ▸ hres, hpaint.of_samePorts hports⟩
  | header hpt' => cases hpt'.symm.trans hpt
  | pixels hpt' => cases hpt'.symm.trans hpt

end

/-- Settles O58: the run paints the stamp, and the row duplication shows row `y / 2` of it in row `y`. -/
theorem stampsAreDrawn : Obligations.StampsAreDrawn := by
  intro s sw sh hwf hsw hsh hpay hvalues
  obtain ⟨t, b, hrun, hports, hpt, hres, hpaint⟩ := exec_stp_paints ⟨hwf, hsw, hsh, hpay, hvalues⟩
  obtain ⟨hkind, hw, hh, hpal⟩ := hpaint.geometry
  obtain ⟨hkind', hw', hh', hpal', hcells⟩ := rowDupRepeatsRows b hpaint.cells.wf hkind
  refine ⟨t, rowDup b, hrun, hports, hpt, hres, hkind', hw'.trans hw, by rw [hh', hh], hpal'.trans hpal, scale_wf 1 2 b,
    fun x y hx hy => ?_⟩
  rw [hcells x y (hw ▸ hx) (hh ▸ hy), hpaint.read_eq hx (by omega), stampCell]

end Sys2Proof.Machine
end

section
/-! The items of the tokenized-BASIC walker, where the registers they read are set (R109 to R124). -/

namespace Sys2Proof.Machine

theorem dict_of_getElem? {t : List Text} {k : Nat} {e : Text} (h : t[k]? = some e) : dict t k = e := by
  have hk : k < t.length := (List.getElem?_eq_some_iff.1 h).1
  rw [dict, if_pos (by omega), Int.toNat_natCast, List.getD_eq_getElem?_getD, h, Option.getD_some]

theorem dict_of_outside {t : List Text} {i : Int} (h : i < 0 ∨ (t.length : Int) ≤ i) :
    dict t i = [0x2D] ++ decInt i ++ [0x2D] :=
  if_neg (by omega)

/-- Settles O31: the two cases of the dictionary read. -/
theorem dictOrPlaceholder : Obligations.DictOrPlaceholder :=
  fun _ _ => ⟨fun _ _ hi hk => hi ▸ dict_of_getElem? hk, dict_of_outside⟩

/-- Settles O44: each of the two items sets `cur` where the line begins. -/
theorem basLinesBegin : Obligations.BasLinesBegin := by
  refine ⟨fun s => startLine_of (s := s.withCur 1) rfl, fun s c hc => ?_⟩
  have hexec : exec .basEol s = startLine ((s.emit [NL]).withCur (c + 1)) := need_of hc _
  rw [hexec]
  exact startLine_of (s := (s.emit [NL]).withCur (c + 1)) rfl

/-- Settles O45: each literal is one token of its own length. -/
theorem basLiteralsPrint : Obligations.BasLiteralsPrint :=
  fun _ _ hc => ⟨fun _ _ => emitToken_of hc _ 3, fun _ => emitToken_of hc _ 2, fun _ _ _ _ => emitToken_of hc _ 5,
    fun _ _ _ _ => emitToken_of hc _ 4⟩

/-- Settles O46: a keyword prints its entry, a colon before REM or ELSE nothing. -/
theorem basKeywordsPrint : Obligations.BasKeywordsPrint :=
  fun _ _ hc => ⟨emitToken_of hc [] 2, emitToken_of hc [] 1, fun _ => emitToken_of hc _ 2, fun _ => emitToken_of hc _ 1⟩

/-- A string moves past its quotes and the bytes between them (R120). -/
theorem execBasStr_of {s : State} {c : Nat} (hc : s.cur = some c) (body : List Byte) (closed : Bool) :
    exec (.basStr body closed) s =
      .next (s.afterToken (0x22 :: quotedBytes body closed) (c + (0x22 :: quotedBytes body closed).length)) :=
  emitToken_of hc _ _

/-- Settles O47: strings, characters and digits are tokens of the length of their bytes. -/
theorem basCharactersPrint : Obligations.BasCharactersPrint := by
  intro s c hc
  refine ⟨fun body => ?closed, fun body => ?opened, fun _ => emitToken_of hc _ 1, fun _ => emitToken_of hc _ 1⟩
  case closed => simpa [quotedBytes, Nat.add_assoc] using execBasStr_of hc body true
  case opened => simpa [quotedBytes, Nat.add_assoc] using execBasStr_of hc body false

theorem execBasUnl_of_refuse {s : State} {c : Nat} (hc : s.cur = some c) (h : s.p.basUnlisted = .refuse) (b : Byte) :
    exec (.basUnl b) s = .next (s.unmodelled (.basUnlistedByte b c)) := by
  simp only [exec, execBasUnl, h, need_of hc]
  rfl

theorem execBasUnl_of_emit {s : State} {c : Nat} {t : Text} (hc : s.cur = some c) (h : s.p.basUnlisted = .emit t) (b : Byte) :
    exec (.basUnl b) s = .next (s.afterToken t (c + 1)) := by
  simp only [exec, execBasUnl, h, emitToken_of hc]

theorem execWbTunl_of_refuse {s : State} {c : Nat} (hc : s.cur = some c) (h : s.p.wbUnlisted = .refuse) (b : Byte) :
    exec (.wbTunl b) s = .next (s.unmodelled (.wbUnlistedToken b c)) := by
  simp only [exec, execWbTunl, h, need_of hc]
  rfl

theorem execWbTunl_of_emit {s : State} {c r : Nat} {t : Text} (hc : s.cur = some c) (hr : s.rend = some r)
    (h : s.p.wbUnlisted = .emit t) (b : Byte) : exec (.wbTunl b) s = .next (s.afterOperand t s.pend (c + 1) r) := by
  simp only [exec, execWbTunl, h, scanFrom, State.emit_cur, need_of hc]
  exact scanLoop_of hr

/-- Settles O48: the refusal and the action of either walker. -/
theorem unlistedBytesAreRefused : Obligations.UnlistedBytesAreRefused :=
  fun _ b _ hc => ⟨fun h => execBasUnl_of_refuse hc h b, fun _ h => execBasUnl_of_emit hc h b,
    fun h => execWbTunl_of_refuse hc h b, fun _ _ h hr => execWbTunl_of_emit hc hr h b⟩

end Sys2Proof.Machine
end

section
/-! The BCD float formatter: trimming, the exponent field, and the text of every form (R125 to R133). -/

namespace Sys2Proof.Machine

/-! ### `Trim` -/

/-- The text without its trailing zeros, before the zeros that go (R126). -/
theorem dropZeros_append_zeros (t : Text) : ∃ k, t = dropZeros t ++ List.replicate k 0x30 := by
  have hzeros : t.rtakeWhile (fun c => c == 0x30) = List.replicate (t.rtakeWhile fun c => c == 0x30).length 0x30 :=
    List.eq_replicate_of_mem fun _ hc => eq_of_beq (List.mem_rtakeWhile_imp (p := fun c : Byte => c == 0x30) hc)
  have hsplit : dropZeros t ++ t.rtakeWhile (fun c => c == 0x30) = t := List.rdropWhile_append_rtakeWhile ..
  exact ⟨_, by rw [← hzeros, hsplit]⟩

theorem dropZeros_getLast?_ne (t : Text) : (dropZeros t).getLast? ≠ some 0x30 := by
  intro hlast
  obtain ⟨hne, hzero⟩ := List.mem_getLast?_eq_getLast hlast
  exact List.rdropWhile_last_not (fun c => c == 0x30) t hne (beq_iff_eq.2 hzero.symm)

/-- Settles O27: `dropZeros` takes the zeros, `trim` the point. -/
theorem trimRemovesZerosAndPoint : Obligations.TrimRemovesZerosAndPoint := by
  intro t
  obtain ⟨k, hk⟩ := dropZeros_append_zeros t
  exact ⟨k, dropZeros t, hk, dropZeros_getLast?_ne t, rfl⟩

theorem dropZeros_subset (t : Text) : dropZeros t ⊆ t := (List.rdropWhile_prefix _ _).subset

theorem trim_subset (t : Text) : trim t ⊆ t := by
  unfold trim
  split
  next => exact List.Subset.trans (List.dropLast_subset _) (dropZeros_subset t)
  next => exact dropZeros_subset t

/-! ### Digits -/

theorem digitTable_getElem? (c : HexCase) {d : Nat} (hd : d < 16) : (digitTable c)[d]? = some (digitCode c d) := by
  have hall : ∀ d : Fin 16, (digitTable c)[d.val]? = some (digitCode c d) := by cases c <;> decide
  exact hall ⟨d, hd⟩

theorem areHexDigits_digitCodes (c : HexCase) (b : Byte) :
    AreHexDigits c b (digitCode c (b.toNat / 16)) (digitCode c (b.toNat % 16)) :=
  ⟨digitTable_getElem? c (by omega), digitTable_getElem? c (by omega)⟩

/-- Two decimal digits, the tens first (R14). -/
theorem pad02_of_lt {n : Nat} (h : n < 100) : pad02 n = [digitCode .upper (n / 10), digitCode .upper (n % 10)] := by
  by_cases h10 : n < 10
  · have hdigits : digits 10 n = [n] := if_pos h10
    rw [Nat.div_eq_of_lt h10, Nat.mod_eq_of_lt h10, pad02, dec, hdigits]
    rfl
  · have hdigits : digits 10 n = [n / 10, n % 10] := by
      rw [digits_eq_reverse (by decide) (by omega), Nat.digits_def' (by decide) (by omega),
        Nat.digits_of_lt 10 (n / 10) (by omega) (by omega)]
      rfl
    rw [pad02, dec, hdigits]
    rfl

theorem allDecimal_digitCodes {l : List Nat} (hl : ∀ d ∈ l, d < 10) : allDecimal (l.map (digitCode .upper)) = true := by
  simp only [allDecimal, List.all_map, List.all_eq_true, Function.comp_apply, decide_eq_true_eq]
  intro d hd
  have hlt := hl d hd
  rw [digitCode_toNat .upper hlt]
  omega

/-- A number below 100 is spelled with two decimal digits that read back as the number (R14). -/
theorem exists_pad02 {n : Nat} (h : n < 100) :
    ∃ tens units : Byte, pad02 n = [tens, units] ∧ allDecimal [tens, units] = true ∧ readNumber 10 [tens, units] = n := by
  have hdigits : ∀ d ∈ [n / 10, n % 10], d < 10 := by
    simp only [List.forall_mem_cons, List.not_mem_nil, false_imp_iff, implies_true, and_true]
    omega
  have hread : readNumber 10 ([n / 10, n % 10].map (digitCode .upper)) = n := by
    rw [readNumber_digitCodes 10 .upper fun d hd => (hdigits d hd).trans (by decide)]
    simp only [List.reverse_cons, List.reverse_nil, List.nil_append, List.cons_append, Nat.ofDigits_cons, Nat.ofDigits_nil]
    omega
  exact ⟨_, _, pad02_of_lt h, allDecimal_digitCodes hdigits, hread⟩

theorem pad03_of_neg {n : Int} (h : n < 0) : pad03 n = 0x2D :: pad02 n.natAbs := if_pos h

/-! ### The forms of a float -/

/-- The exponent is that of the exponent field, less 64 (R64). -/
theorem bcdExponent_eq (f0 : Byte) : bcdExponent f0 = ((f0 &&& 0x7F).toNat : Int) - 64 := by
  have hfield : (f0 &&& 0x7F).toNat = f0.toNat % 2 ^ 7 := by
    rw [BitVec.toNat_and]
    exact Nat.and_two_pow_sub_one_eq_mod f0.toNat 7
  rw [bcdExponent, BitVec.extractLsb'_toNat, Nat.shiftRight_zero, hfield]

theorem exponentField_lt (f0 : Byte) : (f0 &&& 0x7F).toNat < 128 := by
  rw [BitVec.toNat_and]
  exact Nat.and_lt_two_pow (n := 7) f0.toNat (by decide)

section
variable {p : Params} {f0 : Byte} (f1 f2 f3 : Byte)

theorem bcdText_zero (h : bcdExponent f0 = -64) : bcdText p f0 f1 f2 f3 = asc "0!" := if_pos h

theorem bcdText_small (hlo : -63 ≤ bcdExponent f0) (hhi : bcdExponent f0 ≤ -3) :
    bcdText p f0 f1 f2 f3 =
      bcdSign f0 ++ scientific (bcdMantissa p.hexCase f1 f2 f3) ++ asc "E" ++ pad03 (bcdExponent f0 - 1) := by
  simp only [bcdText]
  rw [if_neg (by omega), if_pos ⟨hlo, hhi⟩]

theorem bcdText_marker (h : bcdExponent f0 = -2) : bcdText p f0 f1 f2 f3 = asc "XXX" := by
  simp only [bcdText]
  rw [if_neg (by omega), if_neg (by omega), if_neg (by omega), if_neg (by omega), if_neg (by omega)]

theorem bcdText_minusOne (h : bcdExponent f0 = -1) :
    bcdText p f0 f1 f2 f3 = bcdSign f0 ++ trim (asc ".0" ++ bcdMantissa p.hexCase f1 f2 f3) := by
  simp only [bcdText]
  rw [if_neg (by omega), if_neg (by omega), if_pos h]

theorem bcdText_fixed (hlo : 0 ≤ bcdExponent f0) (hhi : bcdExponent f0 ≤ 14) :
    bcdText p f0 f1 f2 f3 = bcdSign f0 ++ fix (bcdMantissa p.hexCase f1 f2 f3) (bcdExponent f0).toNat := by
  simp only [bcdText]
  rw [if_neg (by omega), if_neg (by omega), if_neg (by omega), if_pos ⟨hlo, hhi⟩]

theorem bcdText_large (hlo : 15 ≤ bcdExponent f0) (hhi : bcdExponent f0 ≤ 63) :
    bcdText p f0 f1 f2 f3 =
      bcdSign f0 ++ scientific (bcdMantissa p.hexCase f1 f2 f3) ++ asc "E+" ++
        pad02 (bcdExponent f0 + posExpAdjOf p.posExpAdj).toNat := by
  simp only [bcdText]
  rw [if_neg (by omega), if_neg (by omega), if_neg (by omega), if_neg (by omega), if_pos ⟨hlo, hhi⟩]

end

theorem fix_of_le (m : Text) {e : Nat} (h : e ≤ 6) : fix m e = trim (m.take e ++ [0x2E] ++ m.drop e) := if_pos h

theorem fix_of_gt (m : Text) {e : Nat} (h : 6 < e) : fix m e = m ++ List.replicate (e - 6) 0x30 ++ [0x21] :=
  if_neg (Nat.not_le.2 h)

/-! ### No form but the marker has an "X" -/

theorem digitCode_ne_x (c : HexCase) {d : Nat} (hd : d < 16) : digitCode c d ≠ 0x58 := by
  have hall : ∀ d : Fin 16, digitCode c d ≠ 0x58 := by cases c <;> decide
  exact hall ⟨d, hd⟩

theorem x_not_mem_bcdSign (f0 : Byte) : 0x58 ∉ bcdSign f0 := by
  unfold bcdSign
  split
  · decide
  · exact List.not_mem_nil

theorem x_not_mem_hex2 (c : HexCase) (b : Byte) : 0x58 ∉ hex2 c b := by
  have hhi : digitCode c (b.toNat / 16) ≠ 0x58 := digitCode_ne_x c (by omega)
  have hlo : digitCode c (b.toNat % 16) ≠ 0x58 := digitCode_ne_x c (by omega)
  simp only [hex2, List.mem_cons, List.not_mem_nil, or_false, not_or]
  exact ⟨hhi.symm, hlo.symm⟩

theorem x_not_mem_bcdMantissa (c : HexCase) (f1 f2 f3 : Byte) : 0x58 ∉ bcdMantissa c f1 f2 f3 := by
  simp only [bcdMantissa, List.mem_append, not_or]
  exact ⟨⟨x_not_mem_hex2 c f1, x_not_mem_hex2 c f2⟩, x_not_mem_hex2 c f3⟩

theorem x_not_mem_pad02 (n : Nat) : 0x58 ∉ pad02 n := by
  simp only [pad02, padZeros, dec, List.mem_append, List.mem_replicate, List.mem_map, not_or, not_and, not_exists]
  exact ⟨fun _ => by decide, fun d hd => digitCode_ne_x .upper ((lt_of_mem_digits (by decide) hd).trans (by decide))⟩

section
variable {m : Text} (hm : 0x58 ∉ m)
include hm

theorem x_not_mem_pointed (e : Nat) : 0x58 ∉ m.take e ++ [0x2E] ++ m.drop e := by
  simp only [List.mem_append, not_or]
  exact ⟨⟨fun h => hm (List.mem_of_mem_take h), by decide⟩, fun h => hm (List.mem_of_mem_drop h)⟩

theorem x_not_mem_scientific : 0x58 ∉ scientific m := x_not_mem_pointed hm 1

theorem x_not_mem_trim : 0x58 ∉ trim m := fun h => hm (trim_subset m h)

theorem x_not_mem_fix (e : Nat) : 0x58 ∉ fix m e := by
  by_cases he : e ≤ 6
  · rw [fix_of_le m he]
    exact x_not_mem_trim (x_not_mem_pointed hm e)
  · rw [fix_of_gt m (by omega)]
    simp only [List.mem_append, List.mem_replicate, not_or]
    exact ⟨⟨hm, fun h => absurd h.2 (by decide)⟩, by decide⟩

end

theorem x_not_mem_bcdText (p : Params) {f0 : Byte} (f1 f2 f3 : Byte) (h : bcdExponent f0 ≠ -2) :
    0x58 ∉ bcdText p f0 f1 f2 f3 := by
  have hsign := x_not_mem_bcdSign f0
  have hm := x_not_mem_bcdMantissa p.hexCase f1 f2 f3
  have hrange := exponentField_lt f0
  have hexp := bcdExponent_eq f0
  obtain hzero | ⟨hlo, hhi⟩ | hone | ⟨hlo, hhi⟩ | ⟨hlo, hhi⟩ : bcdExponent f0 = -64 ∨
      (-63 ≤ bcdExponent f0 ∧ bcdExponent f0 ≤ -3) ∨ bcdExponent f0 = -1 ∨
      (0 ≤ bcdExponent f0 ∧ bcdExponent f0 ≤ 14) ∨ (15 ≤ bcdExponent f0 ∧ bcdExponent f0 ≤ 63) := by omega
  · rw [bcdText_zero f1 f2 f3 hzero]
    decide
  · rw [bcdText_small f1 f2 f3 hlo hhi, pad03_of_neg (by omega)]
    simp only [List.mem_append, List.mem_cons, not_or]
    exact ⟨⟨⟨hsign, x_not_mem_scientific hm⟩, by decide⟩, by decide, x_not_mem_pad02 _⟩
  · rw [bcdText_minusOne f1 f2 f3 hone]
    simp only [List.mem_append, not_or]
    refine ⟨hsign, x_not_mem_trim ?_⟩
    simp only [List.mem_append, not_or]
    exact ⟨by decide, hm⟩
  · rw [bcdText_fixed f1 f2 f3 hlo hhi]
    simp only [List.mem_append, not_or]
    exact ⟨hsign, x_not_mem_fix hm _⟩
  · rw [bcdText_large f1 f2 f3 hlo hhi]
    simp only [List.mem_append, not_or]
    exact ⟨⟨⟨hsign, x_not_mem_scientific hm⟩, by decide⟩, x_not_mem_pad02 _⟩

/-- Settles O32: the marker is the one text with an "X", and it belongs to exponent −2. -/
theorem bcdZeroAndMarker : Obligations.BcdZeroAndMarker := by
  intro p f0 f1 f2 f3
  have hexp := bcdExponent_eq f0
  refine ⟨fun hzero => ?zero, fun htext => ?only, fun hmark => ?marker⟩
  case zero =>
    rw [hzero] at hexp
    exact bcdText_zero f1 f2 f3 hexp
  case only =>
    have htwo : bcdExponent f0 = -2 := by
      by_contra hne
      exact x_not_mem_bcdText p f1 f2 f3 hne (by rw [htext]; decide)
    exact BitVec.eq_of_toNat_eq (show (f0 &&& 0x7F).toNat = 0x3E by omega)
  case marker =>
    rw [hmark] at hexp
    exact bcdText_marker f1 f2 f3 hexp

/-- Settles O33: each range of the exponent field is a form of its own. -/
theorem bcdSmallExponents : Obligations.BcdSmallExponents := by
  refine ⟨fun p f0 f1 f2 f3 => ?_, rfl⟩
  have hexp := bcdExponent_eq f0
  have hrange := exponentField_lt f0
  refine ⟨_, _, _, _, _, _, areHexDigits_digitCodes p.hexCase f1, areHexDigits_digitCodes p.hexCase f2,
    areHexDigits_digitCodes p.hexCase f3, fun hlo hhi => ?small, fun hone => ?minusOne, fun hlo hhi => ?point,
    fun hlo hhi => ?zeros, fun hlo => ?large⟩
  case small =>
    obtain ⟨tens, units, hpad, hdec, hread⟩ := exists_pad02 (n := (bcdExponent f0 - 1).natAbs) (by omega)
    refine ⟨tens, units, ?_, hdec, by rw [hread]; omega⟩
    rw [bcdText_small f1 f2 f3 (by omega) (by omega), pad03_of_neg (by omega), hpad, List.append_assoc, List.append_assoc]
    rfl
  case minusOne => exact bcdText_minusOne f1 f2 f3 (by omega)
  case point =>
    have he : (bcdExponent f0).toNat = (f0 &&& 0x7F).toNat - 64 := by omega
    rw [bcdText_fixed f1 f2 f3 (by omega) (by omega), he, fix_of_le _ (by omega)]
    rfl
  case zeros =>
    have he : (bcdExponent f0).toNat = (f0 &&& 0x7F).toNat - 64 := by omega
    have hcount : (f0 &&& 0x7F).toNat - 64 - 6 = (f0 &&& 0x7F).toNat - 70 := by omega
    rw [bcdText_fixed f1 f2 f3 (by omega) (by omega), he, fix_of_gt _ (by omega), hcount, ← List.append_assoc,
      ← List.append_assoc]
    rfl
  case large =>
    have hadj : posExpAdjOf p.posExpAdj = 0 ∨ posExpAdjOf p.posExpAdj = -1 := by
      cases p.posExpAdj
      · exact .inl rfl
      · exact .inr rfl
    obtain ⟨tens, units, hpad, hdec, hread⟩ := exists_pad02 (n := (bcdExponent f0 + posExpAdjOf p.posExpAdj).toNat) (by omega)
    refine ⟨tens, units, ?_, hdec, fun hzero => ?_, fun hminus => ?_⟩
    · rw [bcdText_large f1 f2 f3 (by omega) (by omega), hpad, List.append_assoc, List.append_assoc]
      rfl
    · rw [hread, hzero, posExpAdjOf]
      omega
    · rw [hread, hminus, posExpAdjOf]
      omega

end Sys2Proof.Machine
end

section
/-! The BASIC walker follows the grammar of its input: every program that the grammar derives is listed, line by line and token
by token (R62, R63, R72, R109 to R123). -/

namespace Sys2Proof.Machine

/-! ### The grammar -/

/-- The places of a BASIC program between two of its parts: where a line begins, and behind a token or a line number. -/
inductive BasPlace
  | line
  | token

/-- No byte of an item is refused: an unlisted byte has the text of an action (R123; log 10). -/
def BasAccepts (p : Params) (i : Instr) : Prop := ∀ b, i = .basUnl b → ∃ t, p.basUnlisted = .emit t

/-- From a place on, the bytes of a BASIC program are listed as a text (R62, R63, R72). -/
inductive BasLists (p : Params) : BasPlace → List Byte → Text → Prop
  /-- Fewer than two bytes are left for a link (D25). -/
  | cutOff {bs : List Byte} (hlen : bs.length < 2) : BasLists p .line bs []
  /-- The link 0x0000. -/
  | sentinel (tail : List Byte) : BasLists p .line (0x00 :: 0x00 :: tail) []
  /-- Another link, and the line number. -/
  | number {link : Word16} (ln : Word16) {bs : List Byte} {x : Text} (hlink : link ≠ 0) (h : BasLists p .token bs x) :
      BasLists p .line (le16Bytes link ++ (le16Bytes ln ++ bs)) (dec ln.toNat ++ [SP] ++ x)
  /-- The bytes end inside a line (D28). -/
  | openLine : BasLists p .token [] [NL]
  /-- The zero byte of a line. -/
  | eol {bs : List Byte} {x : Text} (h : BasLists p .line bs x) : BasLists p .token (0x00 :: bs) ([NL] ++ x)
  /-- A token that stands for itself before what follows it. -/
  | item {i : Instr} {bs : List Byte} {x : Text} (hfits : tokenFits bs.head? i = true) (haccepts : BasAccepts p i)
      (h : BasLists p .token bs x) : BasLists p .token (tokenBytes i ++ bs) (tokenText p i ++ x)

section
variable {p : Params} {bs : List Byte} {x : Text}

/-- The tokens of a line, before what may follow them. -/
theorem basLists_tokens {toks : List Instr} {next : List Byte} (hnext : next.head? = bs.head?)
    (hfits : tokensFit next toks = true) (haccepts : ∀ i ∈ toks, BasAccepts p i) (h : BasLists p .token bs x) :
    BasLists p .token (toks.flatMap tokenBytes ++ bs) (toks.flatMap (tokenText p) ++ x) := by
  induction toks with
  | nil => exact h
  | cons i rest ih =>
    simp only [tokensFit, Bool.and_eq_true] at hfits
    obtain ⟨hi, hrest⟩ := hfits
    simp only [List.flatMap_cons, List.append_assoc]
    refine .item ?_ (haccepts i (by simp)) (ih hrest fun j hj => haccepts j (by simp [hj]))
    rwa [List.head?_append, ← hnext, ← List.head?_append]

/-- A whole line up to what follows its tokens. -/
theorem basLists_line {l : BasLine} {next : List Byte} (hfits : l.Fits p next) (hnext : next.head? = bs.head?)
    (h : BasLists p .token bs x) :
    BasLists p .line (le16Bytes l.link ++ le16Bytes l.number ++ l.tokens.flatMap tokenBytes ++ bs)
      (dec l.number.toNat ++ [SP] ++ l.tokens.flatMap (tokenText p) ++ x) := by
  have htokens := basLists_tokens hnext hfits.tokens (fun i hi b hb => hfits.unlisted b (hb ▸ hi)) h
  simpa only [List.append_assoc] using BasLists.number l.number hfits.link htokens

theorem basLists_ending {ending : BasEnding} (h : ending.Fits p) : BasLists p .line ending.bytes (ending.text p) := by
  cases ending with
  | sentinel tail => exact .sentinel tail
  | cutOff rest => exact .cutOff h
  | openLine l =>
    have hline := basLists_line h rfl .openLine
    rw [List.append_nil] at hline
    exact hline

/-- The grammar derives every program of fitting lines. -/
theorem basLists_program {lines : List BasLine} {ending : BasEnding} (hlines : ∀ l ∈ lines, l.Fits p [0x00])
    (hending : ending.Fits p) :
    BasLists p .line (lines.flatMap BasLine.bytes ++ ending.bytes)
      (lines.flatMap (BasLine.text p) ++ ending.text p) := by
  induction lines with
  | nil => exact basLists_ending hending
  | cons l rest ih =>
    have hrest := ih fun l' hl' => hlines l' (by simp [hl'])
    have hline := basLists_line (bs := 0x00 :: (rest.flatMap BasLine.bytes ++ ending.bytes)) (hlines l (by simp)) rfl (.eol hrest)
    simpa only [List.flatMap_cons, BasLine.bytes, BasLine.text, List.append_assoc, List.cons_append, List.nil_append] using hline

end

/-! ### The bytes that are left -/

/-- `bs` is what stands in `D` from `cur` on. -/
def State.Unread (s : State) (bs : List Byte) : Prop :=
  ∃ before, s.d = Memory.ofBytes (before ++ bs) ∧ s.cur = some before.length

section
variable {s : State} {c : Nat} {bs : List Byte}

theorem State.Unread.exists_cur (h : s.Unread bs) : ∃ c, s.cur = some c :=
  h.elim fun _ hpos => ⟨_, hpos.2⟩

/-- An item takes its bytes and emits its text. -/
theorem State.Unread.take {used : List Byte} (h : s.Unread (used ++ bs)) (hc : s.cur = some c) (x : Text) :
    ((s.emit x).withCur (c + used.length)).Unread bs := by
  obtain ⟨before, hd, hcur⟩ := h
  obtain rfl : before.length = c := Option.some.inj (hcur.symm.trans hc)
  exact ⟨before ++ used, by simpa using hd, by simp [State.withCur]⟩

theorem State.Unread.size_eq (h : s.Unread bs) (hc : s.cur = some c) : s.d.size = c + bs.length := by
  obtain ⟨before, hd, hcur⟩ := h
  obtain rfl : before.length = c := Option.some.inj (hcur.symm.trans hc)
  simp [hd]

theorem State.Unread.read_eq (h : s.Unread bs) (hc : s.cur = some c) (k : Nat) : s.d.read (c + k) = bs[k]? := by
  obtain ⟨before, hd, hcur⟩ := h
  obtain rfl : before.length = c := Option.some.inj (hcur.symm.trans hc)
  rw [hd, read_ofBytes, List.getElem?_append_right (Nat.le_add_right _ _), Nat.add_sub_cancel_left]

/-- A field among the bytes that are left (R44). -/
theorem State.Unread.read16_eq {used : List Byte} {v : Word16} (h : s.Unread (used ++ (le16Bytes v ++ bs))) (hc : s.cur = some c) :
    s.d.read16 (c + used.length) = some v := by
  have hlo : s.d.read (c + used.length) = some (v.extractLsb' 0 8) := by simp [h.read_eq hc, le16Bytes]
  have hhi : s.d.read (c + used.length + 1) = some (v.extractLsb' 8 8) := by simp [h.read_eq hc, Nat.add_assoc, le16Bytes]
  simp only [Memory.read16, hlo, hhi]
  exact congrArg some (le16_le16Bytes v)

theorem State.Unread.nextBytes_eq (h : s.Unread bs) (hpt : s.pt = .basToken) : nextBytes s = .ok bs := by
  obtain ⟨before, hd, hcur⟩ := h
  rw [nextBytes_basToken hpt hcur, hd, tail_ofBytes, List.drop_left]

end

/-! ### The walker -/

/-- What the walker does at a place: `Line()` begins, or its token loop goes on (R110). -/
def BasPlace.run : BasPlace → State → Out
  | .line => startLine
  | .token => tokenLoop

/-- An outcome goes on, within `n` items, to the end of a walker with the text `x`. -/
def ListsWithin (n : Nat) (out : Out) (x : Text) : Prop :=
  ∃ s t, out = .next s ∧ runItems n s = .next t ∧ t.res = some (.text x)

theorem runItems_of_dispatch {s : State} (hpt : s.pt = .dispatch) (n : Nat) : runItems n s = .next s := by
  cases n with
  | zero | succ n => exact if_pos hpt

theorem listsWithin_listed (n : Nat) (s : State) (x : Text) : ListsWithin n (.next (s.listed x)) x :=
  ⟨s.listed x, s.listed x, rfl, runItems_of_dispatch rfl n, rfl⟩

theorem listsWithin_step {n : Nat} {s : State} {x : Text} (hpt : s.pt ≠ .dispatch) (h : ListsWithin n (step s) x) :
    ListsWithin (n + 1) (.next s) x := by
  obtain ⟨u, t, hstep, hrun, hres⟩ := h
  refine ⟨s, t, rfl, ?_, hres⟩
  rw [runItems, if_neg hpt, takeItem_runItem hpt, hstep]
  exact hrun

theorem length_lt_of_decode {bs rest : List Byte} {i : Instr} (h : decode .basToken bs = .ok (i, rest)) :
    rest.length < bs.length := by
  obtain ⟨-, first, more, rfl⟩ := decode_wellRead (fun _ => by simp) bs i rest h
  simp only [List.length_cons, List.length_append]
  omega

section
variable {s : State} {c n : Nat} {bs rest : List Byte} {x : Text} {i : Instr}

/-- The token loop takes the token that the bytes spell (R110). -/
theorem tokenLoop_listsWithin (hun : s.Unread bs) (hdec : decode .basToken bs = .ok (i, rest))
    (h : ListsWithin n (exec i (s.goto .basToken)) x) : ListsWithin (n + 1) (tokenLoop s) x := by
  obtain ⟨c, hc⟩ : ∃ c, s.cur = some c := hun.exists_cur
  have hleft : c < s.d.size := by
    have := length_lt_of_decode hdec
    rw [hun.size_eq hc]
    omega
  have hloop : tokenLoop s = .next (s.goto .basToken) := tokenLoop_next.2 ⟨c, hc, .inl ⟨hleft, rfl⟩⟩
  have hstep : step (s.goto .basToken) = exec i (s.goto .basToken) :=
    takeItem_of_decode exec (State.Unread.nextBytes_eq hun rfl) hdec
  rw [hloop]
  exact listsWithin_step (by simp) (hstep ▸ h)

/-- A token that no rule refuses emits its text and moves past its bytes (R113 to R123). -/
theorem exec_token {next : Option Byte} (hfits : tokenFits next i = true) (haccepts : BasAccepts s.p i) (hc : s.cur = some c) :
    exec i s = tokenLoop ((s.emit (tokenText s.p i)).withCur (c + (tokenBytes i).length)) := by
  rw [tokenLoop_of]
  obtain ⟨hint2, hint1, hflt4, -⟩ := basLiteralsPrint s c hc
  obtain ⟨hcolrem, hcolelse, hext, hprim⟩ := basKeywordsPrint s c hc
  obtain ⟨-, -, hchr, hdig⟩ := basCharactersPrint s c hc
  cases i with
  | basInt2 const v => exact hint2 const v
  | basInt1 v => exact hint1 v
  | basFlt4 f0 f1 f2 f3 => exact hflt4 f0 f1 f2 f3
  | basColrem => exact hcolrem
  | basColelse => exact hcolelse
  | basExt e => exact hext e
  | basPrim b => exact hprim b
  | basStr body closed =>
    have hbytes : tokenBytes (.basStr body closed) = 0x22 :: quotedBytes body closed :=
      List.take_of_length_le (Nat.le_refl _)
    rw [hbytes]
    exact execBasStr_of hc body closed
  | basChr b => exact hchr b
  | basDig d => exact hdig d
  | basUnl b =>
    obtain ⟨t, ht⟩ := haccepts b rfl
    rw [execBasUnl_of_emit hc ht, tokenText, ht]
    rfl
  | _ => cases hfits

/-- The line's number follows a link that is not 0 (R110). -/
theorem startLine_of_number {link ln : Word16} (hun : s.Unread (le16Bytes link ++ (le16Bytes ln ++ bs))) (hc : s.cur = some c)
    (hlink : link ≠ 0) : startLine s = tokenLoop ((s.emit (dec ln.toNat ++ [SP])).withCur (c + 4)) := by
  obtain ⟨-, -, -, hline⟩ := startLine_of hc
  have hsize : c + 2 ≤ s.d.size := by
    have := hun.size_eq hc
    simp only [List.length_append, le16Bytes, List.length_cons] at this
    omega
  rw [tokenLoop_of]
  exact hline link ln hsize (State.Unread.read16_eq (used := []) hun hc) hlink (hun.read16_eq hc)

end

/-- The walker lists what the grammar derives, with an item for each token and each zero byte (R110, R171). -/
theorem BasLists.listsWithin {p : Params} {pl : BasPlace} {bs : List Byte} {x : Text} (h : BasLists p pl bs x) {s : State}
    {n : Nat} (hp : s.p = p) (hun : s.Unread bs) (hn : bs.length ≤ n) : ListsWithin n (pl.run s) (s.txt ++ x) := by
  induction h generalizing s n with
  | cutOff hlen =>
    obtain ⟨c, hc⟩ := hun.exists_cur
    obtain ⟨hcut, -⟩ := startLine_of hc
    have hsize := hun.size_eq hc
    rw [List.append_nil, BasPlace.run, hcut (by omega)]
    exact listsWithin_listed n _ _
  | sentinel tail =>
    obtain ⟨c, hc⟩ := hun.exists_cur
    obtain ⟨-, hzero, -⟩ := startLine_of hc
    have hsize := hun.size_eq hc
    have hlink : s.d.read16 c = some 0 := State.Unread.read16_eq (used := []) (v := 0) hun hc
    rw [List.length_cons, List.length_cons] at hsize
    rw [List.append_nil, BasPlace.run, hzero (by omega) hlink]
    exact listsWithin_listed n _ _
  | @number link ln bs x hlink _ ih =>
    obtain ⟨c, hc⟩ := hun.exists_cur
    have htake : ((s.emit (dec ln.toNat ++ [SP])).withCur (c + 4)).Unread bs :=
      State.Unread.take (used := le16Bytes link ++ le16Bytes ln) (by rwa [List.append_assoc]) hc _
    rw [List.length_append, List.length_append] at hn
    rw [BasPlace.run, startLine_of_number hun hc hlink, ← List.append_assoc]
    exact ih hp htake (by omega)
  | openLine =>
    obtain ⟨c, hc⟩ := hun.exists_cur
    have hend : tokenLoop s = .next (s.listed (s.txt ++ [NL])) :=
      tokenLoop_next.2 ⟨c, hc, .inr ⟨(hun.size_eq hc).le, rfl⟩⟩
    rw [BasPlace.run, hend]
    exact listsWithin_listed n _ _
  | @eol bs x _ ih =>
    obtain ⟨c, hc⟩ := hun.exists_cur
    have htake : (((s.goto .basToken).emit [NL]).withCur (c + 1)).Unread bs := State.Unread.take (used := [0x00]) hun hc [NL]
    have hexec : exec .basEol (s.goto .basToken) = startLine (((s.goto .basToken).emit [NL]).withCur (c + 1)) := need_of hc _
    obtain ⟨n, rfl⟩ : ∃ m, n = m + 1 := Nat.exists_eq_succ_of_ne_zero (Nat.ne_zero_of_lt hn)
    refine tokenLoop_listsWithin hun (decode_basEol bs) ?_
    rw [hexec, ← List.append_assoc]
    exact ih hp htake (Nat.le_of_succ_le_succ hn)
  | @item i bs x hfits haccepts _ ih =>
    obtain ⟨c, hc⟩ := hun.exists_cur
    have hdec := decode_tokenBytes hfits
    have hshort := length_lt_of_decode hdec
    subst hp
    have htake : (((s.goto .basToken).emit (tokenText s.p i)).withCur (c + (tokenBytes i).length)).Unread bs :=
      State.Unread.take hun hc (tokenText s.p i)
    obtain ⟨n, rfl⟩ : ∃ m, n = m + 1 := Nat.exists_eq_succ_of_ne_zero (by omega)
    refine tokenLoop_listsWithin hun hdec ?_
    rw [exec_token (s := s.goto .basToken) hfits haccepts hc, ← List.append_assoc]
    exact ih rfl htake (by omega)

/-- The signature stands, and the first line begins (R109). -/
theorem step_basSignature {s : State} {bs : List Byte} (hd : s.d = Memory.ofBytes (0xFF :: bs)) (hpt : s.pt = .basSignature) :
    step s = startLine (s.withCur 1) := by
  refine takeItem_of_decode exec (bs := [0xFF]) (rest := []) (i := .basFile) ?_ ?_
  · have hbyte : s.d.run 0 1 = [0xFF] := by rw [hd]; rfl
    rw [nextBytes, hpt, hbyte]
  · rw [placeOf, hpt]
    rfl

/-- Settles O59: the grammar derives the program, and the walker follows the grammar; a run from dispatch keeps the ports and
ends at dispatch. -/
theorem basicProgramsAreListed : Obligations.BasicProgramsAreListed := by
  intro s lines ending hlines hending hd
  have hlists := basLists_program hlines hending
  generalize lines.flatMap BasLine.bytes ++ ending.bytes = bs at hd hlists
  have hun : ((s.enter .bas).withCur 1).Unread bs := ⟨[0xFF], hd, rfl⟩
  obtain ⟨n, hbound⟩ : ∃ n, itemBound s = n + 1 := ⟨0x3FFFF + 4 * s.d.size, by simp only [itemBound]; omega⟩
  have hleft : bs.length ≤ n := by
    have hsize : s.d.size = bs.length + 1 := by rw [hd, ofBytes_size, List.length_cons]
    simp only [itemBound] at hbound
    omega
  have hlisted := hlists.listsWithin (s := (s.enter .bas).withCur 1) rfl hun hleft
  rw [BasPlace.run, ← step_basSignature (s := s.enter .bas) hd rfl] at hlisted
  obtain ⟨u, t, hu, hrun, hres⟩ := listsWithin_step (by simp [State.enter, entryPoint]) hlisted
  cases hu
  rw [← hbound] at hrun
  have hexec : exec .bas s = .next t := hrun
  obtain ⟨-, hpt⟩ := runItems_keeps (P := fun _ => True) (fun _ _ _ _ _ => trivial) trivial hrun
  exact ⟨t, hexec, exec_samePorts hexec, hpt, hres⟩

end Sys2Proof.Machine
end

section
/-! The text column, and padding up to a column (R32, R140). -/

namespace Sys2Proof.Machine

/-- `Pad(c)` is the emission of the spaces that are missing up to column `c` (R140). -/
theorem pad_eq_emit (s : State) (c : Nat) : s.pad c = s.emit (spaces (c - col s.txt)) := rfl

theorem col_append_spaces (t : Text) (n : Nat) : col (t ++ spaces n) = col t + n := by
  have hSP : ∀ c ∈ List.replicate n SP, (c != NL) = true := fun c hc => List.eq_of_mem_replicate hc ▸ rfl
  rw [col, col, spaces, List.reverse_append, List.reverse_replicate, List.takeWhile_append_of_pos hSP, List.length_append,
    List.length_replicate, Nat.add_comm]

/-- Behind a line's start the column is that of the line alone (R32). -/
theorem col_append_of_lineStart {before : Text} (h : col before = 0) (u : Text) : col (before ++ u) = col u := by
  have hbefore : before.reverse.takeWhile (fun c => c != NL) = [] := List.eq_nil_of_length_eq_zero h
  rw [col, col, List.reverse_append, List.takeWhile_append, hbefore, List.append_nil]
  split
  next hall => exact hall.symm
  next => rfl

theorem col_append_newline (t : Text) : col (t ++ [NL]) = 0 := by
  simp [col]

/-- Settles O30: the spaces are what is missing up to the column, and none is missing past it. -/
theorem padReachesColumn : Obligations.PadReachesColumn := by
  refine fun s c => ⟨fun hlt => ⟨rfl, ?_⟩, fun hle => ?_⟩
  · rw [pad_eq_emit, State.emit_txt, col_append_spaces, Nat.add_sub_of_le (Nat.le_of_lt hlt)]
  · rw [pad_eq_emit, Nat.sub_eq_zero_of_le hle]
    simp only [State.emit, spaces, List.replicate_zero, List.append_nil]

end Sys2Proof.Machine
end

section
/-! The hexadecimal and binary literals: digits behind zeros up to a minimum width (R14, R150). -/

namespace Sys2Proof.Machine

theorem length_padZeros (k : Nat) (t : Text) : (padZeros k t).length = max k t.length := by
  rw [padZeros, List.length_append, List.length_replicate]
  omega

/-- Zeros on the left do not change the number that is read. -/
theorem readNumber_padZeros (b k : Nat) (t : Text) : readNumber b (padZeros k t) = readNumber b t := by
  have hzeros (n : Nat) : (List.replicate n (0x30 : Byte)).foldl (fun m c => b * m + digitValue c) 0 = 0 := by
    induction n with
    | zero => rfl
    | succ n ih => exact ih
  rw [readNumber, padZeros, List.foldl_append, hzeros, readNumber]

theorem digits_length_le {b n k : Nat} (hb : 2 ≤ b) (hk : 0 < k) (h : n < b ^ k) : (digits b n).length ≤ k := by
  by_cases hn : n = 0
  · rw [hn, digits_zero hb]
    exact hk
  · rw [digits_eq_reverse hb hn, List.length_reverse]
    exact (Nat.digits_length_le_iff hb n).2 h

/-- The code of a digit of base `b` is one of the first `b` codes (R14). -/
theorem digitCode_mem_take {b d : Nat} (hb : b ≤ 16) (hd : d < b) : digitCode .upper d ∈ (digitTable .upper).take b := by
  refine List.mem_of_getElem? (i := d) ?_
  rw [List.getElem?_take_of_lt hd, digitTable_getElem? .upper (hd.trans_le hb)]

/-- The digits of `n`, padded to `k` places, read back as `n`, and every code is a digit of the base (R14). -/
theorem padZeros_digits_spells {b : Nat} (hb : 2 ≤ b) (hb16 : b ≤ 16) (n k : Nat) :
    let t := padZeros k ((digits b n).map (digitCode .upper))
    readNumber b t = n ∧ ∀ c ∈ t, c ∈ (digitTable .upper).take b := by
  refine ⟨by rw [readNumber_padZeros, readNumber_digits hb hb16], fun c hc => ?_⟩
  rw [padZeros, List.mem_append, List.mem_map] at hc
  obtain hzero | ⟨d, hd, rfl⟩ := hc
  · rw [List.eq_of_mem_replicate hzero]
    exact digitCode_mem_take (d := 0) hb16 (by omega)
  · exact digitCode_mem_take hb16 (lt_of_mem_digits hb hd)

/-- A number that has digits enough in `k` places is spelled with exactly `k` (R14). -/
theorem length_padZeros_digits {b n k : Nat} (hb : 2 ≤ b) (hk : 0 < k) (h : n < b ^ k) :
    (padZeros k ((digits b n).map (digitCode .upper))).length = k := by
  rw [length_padZeros, List.length_map, Nat.max_eq_left (digits_length_le hb hk h)]

/-- The literal's width: 256 itself still has the smaller minimum width, which it exceeds by one digit (R150, C10). -/
theorem length_literal {b k : Nat} (hb : 2 ≤ b) (hk : 0 < k) (hbyte : b ^ k = 256) (h256 : (digits b 256).length = k + 1)
    (v : Word16) :
    (padZeros (if v.toNat ≤ 256 then k else 2 * k) ((digits b v.toNat).map (digitCode .upper))).length =
      if v.toNat < 256 then k else if v.toNat = 256 then k + 1 else 2 * k := by
  obtain hlt | heq | hgt := Nat.lt_trichotomy v.toNat 256
  · rw [if_pos hlt.le, if_pos hlt]
    exact length_padZeros_digits hb hk (hbyte ▸ hlt)
  · rw [heq, if_pos (Nat.le_refl _), if_neg (Nat.lt_irrefl _), if_pos rfl, length_padZeros, List.length_map, h256]
    exact Nat.max_eq_right k.le_succ
  · have hword : b ^ (2 * k) = 2 ^ 16 := by rw [Nat.mul_comm, Nat.pow_mul, hbyte]; rfl
    rw [if_neg hgt.not_ge, if_neg hgt.not_gt, if_neg hgt.ne']
    exact length_padZeros_digits hb (by omega) (hword ▸ v.isLt)

/-- Settles O29: either literal is the padded digits of its base behind its two codes. -/
theorem hexAndBinarySpelling : Obligations.HexAndBinarySpelling := by
  refine fun v => ⟨⟨hexw v.toNat (if v.toNat ≤ 256 then 2 else 4), rfl, ?hex⟩,
    ⟨binw v.toNat (if v.toNat ≤ 256 then 8 else 16), rfl, ?bin⟩⟩
  case hex =>
    obtain ⟨hread, hcodes⟩ := padZeros_digits_spells (b := 16) (by decide) (by decide) v.toNat
      (if v.toNat ≤ 256 then 2 else 4)
    exact ⟨hread, hcodes, length_literal (b := 16) (k := 2) (by decide) (by decide) rfl rfl v⟩
  case bin =>
    obtain ⟨hread, hcodes⟩ := padZeros_digits_spells (b := 2) (by decide) (by decide) v.toNat
      (if v.toNat ≤ 256 then 8 else 16)
    exact ⟨hread, hcodes, length_literal (b := 2) (k := 8) (by decide) (by decide) rfl rfl v⟩

end Sys2Proof.Machine
end

section
/-! The items of the WBASS2 walker, where the registers they read are set (R134 to R151). -/

namespace Sys2Proof.Machine

section
variable {s : State} {c r : Nat}

/-! ### Passes over the records -/

theorem execWbPrepass_of_marker {p : Nat} (hpt : s.pt = .prepass p) :
    exec (.wbPrepass 0xFF) s = .next { s with tbl := some (p + 1), cur := some 1, pt := .recordLength } :=
  needPrepassOffset_of hpt _

theorem execWbPrepass_of_record {p : Nat} (hpt : s.pt = .prepass p) {l : Byte} (hl : l ≠ 0xFF) :
    exec (.wbPrepass l) s = .next { s with pt := .prepass (p + 1 + l.toNat % 128) } := by
  have hlength : (l.extractLsb' 0 7).toNat = l.toNat % 128 := by rw [BitVec.extractLsb'_toNat, Nat.shiftRight_zero]
  simp only [exec, execWbPrepass, needPrepassOffset_of hpt, if_neg hl, hlength]
  rfl

/-- Settles O49: each of the items writes its registers and goes on. -/
theorem wbPassesOverRecords : Obligations.WbPassesOverRecords := by
  refine ⟨fun _ => rfl, fun _ _ hpt => execWbPrepass_of_marker hpt, fun _ _ _ hpt hl => execWbPrepass_of_record hpt hl,
    fun _ => rfl, fun s c hc => ?_⟩
  simp only [exec, execWbBlank, need_of hc, State.afterRecord, List.append_nil]
  rfl

/-! ### Records -/

/-- A label that lies outside `D` fails behind its index (R138, R139). -/
theorem execWbLrec_of_outside {l : BitVec 7} {idx : Word16} {tbl : Nat} (hc : s.cur = some c) (hl : 2 ≤ l.toNat)
    (hidx : s.d.read16 (c + 1) = some idx) (ht : s.tbl = some tbl) (hname : labelName s.d tbl idx.toNat = none) :
    exec (.wbLrec l) s = .next (((openRecord s c l).withCur (c + 3)).raiseRead (tbl + 8 * idx.toNat)) := by
  simp only [exec, execWbLrec, need_of hc, if_neg (Nat.not_lt.2 hl), hidx, need_of ht, hname]

/-- Behind its label a record ends, or goes on with its lead (R138). -/
theorem execWbLrec_of_label {l : BitVec 7} {idx : Word16} {tbl : Nat} {name : List (BitVec 7)} (hc : s.cur = some c)
    (hl : 2 ≤ l.toNat) (hidx : s.d.read16 (c + 1) = some idx) (ht : s.tbl = some tbl)
    (hname : labelName s.d tbl idx.toNat = some name) :
    let s' := (((openRecord s c l).withCur (c + 3)).emit (nameText name ++ [0x3A])).setLbl
    exec (.wbLrec l) s = .next (if l.toNat - 2 = 0 then endRecord s' else s'.goto .lead) := by
  simp only [exec, execWbLrec, need_of hc, if_neg (Nat.not_lt.2 hl), hidx, need_of ht, hname, apply_ite Host.Outcome.next]

/-- Settles O50: the branches of a record's start, one for each clause. -/
theorem wbRecordsOpen : Obligations.WbRecordsOpen := by
  intro s c l hc
  refine ⟨need_of hc _, fun hl => ?short, fun hl hidx => ⟨Config.memReadInfo s.d (c + 1), ?cutOff⟩,
    fun idx tbl hl hidx ht => ⟨fun hname => ⟨Config.memReadInfo s.d (tbl + 8 * idx.toNat), ?outside⟩,
      fun name hname h2 => ?labelOnly, fun name hname h2 => ?labelled⟩⟩
  case short =>
    simp only [exec, execWbLrec, need_of hc, if_pos hl]
    rfl
  case cutOff =>
    simp only [exec, execWbLrec, need_of hc, if_neg (Nat.not_lt.2 hl), hidx]
    rfl
  case outside =>
    rw [execWbLrec_of_outside hc hl hidx ht hname]
    rfl
  case labelOnly =>
    rw [execWbLrec_of_label hc hl hidx ht hname, if_pos (by omega)]
    rfl
  case labelled =>
    rw [execWbLrec_of_label hc hl hidx ht hname, if_neg (by omega)]
    rfl

/-! ### Leads -/

theorem endAtRend_emit (hr : s.rend = some r) (x : Text) : endAtRend (s.emit x) = .next (s.afterRecord x r) :=
  need_of hr _

theorem execWbLcmt_of (hr : s.rend = some r) (text : List Byte) :
    exec (.wbLcmt text) s =
      .next (s.afterRecord ((if s.lbl then spaces (8 - col s.txt) else []) ++ 0x3B :: text) r) := by
  simp only [exec, execWbLcmt]
  split
  next => rw [pad_eq_emit, emit_emit, endAtRend_emit hr]
  next => rw [List.nil_append, endAtRend_emit hr]

theorem withCur_of_cur (hc : s.cur = some c) : s.withCur c = s := by
  rw [State.withCur, ← hc]

theorem scanLoop_emit (hr : s.rend = some r) (x : Text) (c' : Nat) :
    scanLoop ((s.emit x).withCur c') = .next (s.afterOperand x s.pend c' r) :=
  scanLoop_of hr

/-- The mnemonic's text, and the padding behind it where bytes of the record remain (R142). -/
theorem execWbLmn_of (hc : s.cur = some c) (hr : s.rend = some r) (m : BitVec 7) :
    let t := spaces (8 - col s.txt) ++ dict s.p.wbMnem m.toNat
    exec (.wbLmn m) s =
      .next (s.afterOperand (t ++ if c + 1 < r then spaces (14 - col (s.txt ++ t)) else []) s.pend (c + 1) r) := by
  have hremain : 0 < r - (c + 1) ↔ c + 1 < r := Nat.sub_pos_iff_lt
  simp only [exec, execWbLmn, need_of hc, need_of hr, pad_eq_emit, emit_emit, hremain]
  split
  next => rw [withCur_emit, emit_emit]; exact scanLoop_emit hr _ _
  next => rw [List.append_nil]; exact scanLoop_emit hr _ _

/-- Settles O51: the three leads, the third with its refusal or its action. -/
theorem wbLeadsPrint : Obligations.WbLeadsPrint := by
  intro s c r hc hr
  refine ⟨execWbLcmt_of hr, execWbLmn_of hc hr, fun b h => ?refused, fun b t h => ?printed⟩
  case refused =>
    simp only [exec, execWbLunl, h, need_of hc]
    rfl
  case printed =>
    simp only [exec, execWbLunl, h]
    exact endAtRend_emit hr t

/-! ### Operands -/

theorem execWbCmt_of (hr : s.rend = some r) (text : List Byte) :
    exec (.wbCmt text) s = .next ({ s with pend := false }.afterRecord
      ((if col s.txt < 30 then spaces (30 - col s.txt) else [SP]) ++ 0x3B :: text) r) := by
  have hdrop (x : Text) : endAtRend ((s.emit x).emitDropping (0x3B :: text)) =
      .next ({ s with pend := false }.afterRecord (x ++ 0x3B :: text) r) := by
    rw [← endAtRend_emit (s := { s with pend := false }) hr, ← emit_emit]
    rfl
  simp only [exec, execWbCmt]
  split
  next => exact hdrop _
  next => exact hdrop _

theorem execWbOp_of (hc : s.cur = some c) (hr : s.rend = some r) (b : Byte) :
    exec (.wbOp b) s = .next (s.afterOperand (dict s.p.wbOp (((b.toNat / 2 : Nat) : Int) - 1)) false (c + 1) r) := by
  rw [← scanLoop_of hr]
  exact need_of hc _

/-- Settles O52: a comment drops the owed space before it ends its record, an operator before the scan goes on. -/
theorem wbCommentsAndOperatorsPrint : Obligations.WbCommentsAndOperatorsPrint :=
  fun _ _ _ hc hr => ⟨execWbCmt_of hr, execWbOp_of hc hr⟩

/-- A string is an atom of the length of its quotes and the bytes between them (R147). -/
theorem execWbStr_of (hc : s.cur = some c) (hr : s.rend = some r) (body : List Byte) (closed : Bool) :
    exec (.wbStr body closed) s = .next (s.afterOperand (owedSpace s.pend ++ 0x22 :: quotedBytes body closed) true
      (c + (0x22 :: quotedBytes body closed).length) r) :=
  scanFrom_atom hc hr _ _

/-- Settles O53: each of them is an atom of its own length. -/
theorem wbAtomsPrint : Obligations.WbAtomsPrint := by
  intro s c r hc hr
  refine ⟨fun body => ?closed, fun body => ?opened, fun _ => scanFrom_atom hc hr _ 3, fun _ => scanFrom_atom hc hr _ 3,
    fun _ => scanFrom_atom hc hr _ 3, fun _ => scanFrom_atom hc hr _ 1, fun _ => scanFrom_atom hc hr _ 1,
    fun _ => scanFrom_atom hc hr _ 1⟩
  case closed => simpa [quotedBytes, Nat.add_assoc] using execWbStr_of hc hr body true
  case opened => simpa [quotedBytes, Nat.add_assoc] using execWbStr_of hc hr body false

theorem execWbLref_of {tbl : Nat} {idx : Word16} {name : List (BitVec 7)} (hc : s.cur = some c) (hr : s.rend = some r)
    (ht : s.tbl = some tbl) (hname : labelName s.d tbl idx.toNat = some name) :
    exec (.wbLref idx) s = .next (s.afterOperand (owedSpace s.pend ++ nameText name) true (c + 3) r) := by
  simp only [exec, execWbLref, need_of ht, hname]
  exact scanFrom_atom hc hr _ 3

/-- Settles O54: a reference is an atom, or fails where its label is outside `D`; a slot is emitted where the scan stands. -/
theorem wbLabelsPrint : Obligations.WbLabelsPrint := by
  intro s c r hc hr
  refine ⟨fun idx tbl name ht hname => execWbLref_of hc hr ht hname,
    fun idx tbl ht hname => ⟨Config.memReadInfo s.d (tbl + 8 * idx.toNat), ?outside⟩, fun name => ?slot⟩
  case outside =>
    simp only [exec, execWbLref, need_of ht, hname]
    rfl
  case slot =>
    rw [← scanLoop_emit hr, withCur_of_cur (s := s.emit (nameText name)) hc]
    rfl

end

end Sys2Proof.Machine
end

section
/-! The bytes and the text of a WBASS2 record that fits: its length byte, its operands one by one, and its line in the parts in
which the walker prints it (R66 to R68, R73). -/

namespace Sys2Proof.Machine

/-- What follows the mnemonic of a line: its operands and its trailing comment. -/
def lineTail (operands : List Instr) (remark : Option (List Byte)) : List Byte := operands.flatMap encode ++ remarkBytes remark

theorem lineTail_cons (i : Instr) (operands : List Instr) (remark : Option (List Byte)) :
    lineTail (i :: operands) remark = encode i ++ lineTail operands remark := by
  simp only [lineTail, List.flatMap_cons, List.append_assoc]

theorem encode_ne_nil_of_operandFits {atEnd : Bool} {i : Instr} (h : operandFits atEnd i = true) : encode i ≠ [] := by
  cases i with
  | wbOp | wbStr | wbLref | wbNumd | wbNumh | wbNumb | wbLogic | wbCond | wbReg => exact List.cons_ne_nil _ _
  | _ => cases h

theorem lineTail_eq_nil_iff {atEnd : Bool} {operands : List Instr} {remark : Option (List Byte)}
    (h : operandsFit atEnd operands = true) : lineTail operands remark = [] ↔ operands = [] ∧ remark = none := by
  cases operands with
  | nil => cases remark <;> simp [lineTail, remarkBytes]
  | cons i rest =>
    simp only [operandsFit, Bool.and_eq_true] at h
    simp [lineTail_cons, encode_ne_nil_of_operandFits h.1]

/-- The first operand is at the end of its record exactly where nothing else is left of the line. -/
theorem decode_lineTail_cons {i : Instr} {operands : List Instr} {remark : Option (List Byte)}
    (h : operandsFit remark.isNone (i :: operands) = true) :
    decode .operand (lineTail (i :: operands) remark) = .ok (i, lineTail operands remark) := by
  simp only [operandsFit, Bool.and_eq_true] at h
  obtain ⟨hi, hrest⟩ := h
  have hend : (operands.isEmpty && remark.isNone) = (lineTail operands remark).isEmpty := by
    rw [Bool.eq_iff_iff, Bool.and_eq_true, List.isEmpty_iff, Option.isNone_iff_eq_none, List.isEmpty_iff,
      lineTail_eq_nil_iff hrest]
  rw [lineTail_cons]
  exact decode_operandFits (hend ▸ hi)

/-- The end of a line behind its operands: its trailing comment, at column 30 or one space on, and `NL` (R138, R145). -/
def endLine (remark : Option (List Byte)) (u : Text) : Text :=
  match remark with
  | none => u ++ [NL]
  | some text => (if col u < 30 then padTo 30 u else u ++ [SP]) ++ 0x3B :: text ++ [NL]

theorem endLine_some (text : List Byte) (u : Text) :
    endLine (some text) u = u ++ ((if col u < 30 then spaces (30 - col u) else [SP]) ++ 0x3B :: text) ++ [NL] := by
  simp only [endLine, padTo]
  split <;> simp only [List.append_assoc]

/-- The start of a line, up to its operands: label, mnemonic, and the padding where more follows (R138, R142). -/
def startText (p : Params) (names : Word16 → Text) (label : Option Word16) (m : BitVec 7) (more : Bool) : Text :=
  let u := padTo 8 (labelText names label) ++ dict p.wbMnem m.toNat
  if more then padTo 14 u else u

theorem WbRecord.text_line {p : Params} {names : Word16 → Text} {label : Option Word16} {m : BitVec 7} {operands : List Instr}
    {remark : Option (List Byte)} (h : operandsFit remark.isNone operands = true) :
    (WbRecord.line label m operands remark).text p names =
      endLine remark
        (operandsText p names operands (startText p names label m (!(lineTail operands remark).isEmpty)) false) := by
  have hmore : (!(lineTail operands remark).isEmpty) = true ↔ ¬ (operands = [] ∧ remark = none) := by
    rw [Bool.not_eq_true', ← Bool.not_eq_true, List.isEmpty_iff, lineTail_eq_nil_iff h]
  simp only [WbRecord.text, startText, hmore, ite_not]
  cases remark with
  | none => rfl
  | some text => rfl

/-- The length byte of a record without label (R66). -/
theorem decodeLength_plain {n : Nat} (hpos : 0 < n) (hle : n ≤ 127) :
    decodeLength (BitVec.ofNat 8 (0 + n)) = .wbRec (BitVec.ofNat 7 n) := by
  have hall : ∀ k : Fin 128, 0 < k.val → decodeLength (BitVec.ofNat 8 (0 + k)) = .wbRec (BitVec.ofNat 7 k) := by decide
  exact hall ⟨n, by omega⟩ hpos

/-- The length byte of a record with label, which the bound keeps apart from the end marker (R66). -/
theorem decodeLength_labelled {n : Nat} (hle : n ≤ 126) :
    decodeLength (BitVec.ofNat 8 (0x80 + n)) = .wbLrec (BitVec.ofNat 7 n) := by
  have hall : ∀ k : Fin 127, decodeLength (BitVec.ofNat 8 (0x80 + k.val)) = .wbLrec (BitVec.ofNat 7 k.val) := by decide
  exact hall ⟨n, by omega⟩

theorem toNat_declaredLength {n : Nat} (hle : n ≤ 127) : (BitVec.ofNat 7 n).toNat = n := by
  rw [BitVec.toNat_ofNat, Nat.mod_eq_of_lt (Nat.lt_succ_of_le hle)]

theorem length_body_le {r : WbRecord} (h : r.fits = true) : r.body.length ≤ if r.labelled then 126 else 127 := by
  simp only [WbRecord.fits, Bool.and_eq_true, decide_eq_true_eq] at h
  obtain ⟨⟨hlen, hlabelled⟩, -⟩ := h
  split
  next hl => exact hlabelled hl
  next => exact hlen

/-- The length byte of a record that fits: it is not the end marker, and its low 7 bits are the declared length (R66, R135). -/
theorem lengthByte_of_fits {r : WbRecord} (h : r.fits = true) :
    let b := BitVec.ofNat 8 ((if r.labelled then 0x80 else 0) + r.body.length)
    b ≠ 0xFF ∧ b.toNat % 128 = r.body.length := by
  intro b
  have hlen := length_body_le h
  have hb : b.toNat = ((if r.labelled then 0x80 else 0) + r.body.length) % 256 := BitVec.toNat_ofNat _ _
  have hvalue : b.toNat ≠ 255 ∧ b.toNat % 128 = r.body.length := by
    clear_value b
    by_cases hl : r.labelled = true
    · rw [if_pos hl] at hb hlen
      omega
    · rw [if_neg hl] at hb hlen
      omega
  exact hvalue.imp_left fun hne hmarker => hne (congrArg BitVec.toNat hmarker)

end Sys2Proof.Machine
end

section
/-! The main pass inside a record: what is left of it, and how its operands and its lead are printed (R141 to R151). -/

namespace Sys2Proof.Machine

/-! ### What is left -/

/-- What the main pass reads and does not write: `D`, `P`, the label table, and the names in it. -/
structure WbInput where
  d : Memory
  p : Params
  tbl : Nat
  names : Word16 → Text

/-- The name of a label is the one in its slot (R139). -/
def WbInput.Named (e : WbInput) (idx : Word16) : Prop :=
  ∃ name, labelName e.d e.tbl idx.toNat = some name ∧ e.names idx = nameText name

/-- The main pass is on its way: `bs` is what is left of `D`, and `x` what has been printed. -/
structure State.Walks (s : State) (e : WbInput) (bs : List Byte) (x : Text) : Prop where
  d : s.d = e.d
  p : s.p = e.p
  tbl : s.tbl = some e.tbl
  unread : s.Unread bs
  txt : s.txt = x

/-- The main pass is inside a record, of which `body` is left before `bs`. -/
structure State.Inside (s : State) (e : WbInput) (body bs : List Byte) (x : Text) : Prop extends s.Walks e (body ++ bs) x where
  rend : ∃ c, s.cur = some c ∧ s.rend = some (c + body.length)

/-- The main pass is behind the label of a record, whose flags are set (R137, R138). -/
structure State.AtLead (s : State) (e : WbInput) (label : Option Word16) (body bs : List Byte) (x : Text) : Prop
    extends s.Inside e body bs x where
  pt : s.pt = .lead
  lbl : s.lbl = label.isSome
  pend : s.pend = false

/-- Wherever the main pass stands at a length byte with `bs` left and `x` printed, it lists `total`. -/
def ListsRecords (e : WbInput) (bs : List Byte) (x total : Text) : Prop :=
  ∀ (s : State) (n : Nat), s.Walks e bs x → s.pt = .recordLength → bs.length ≤ n → ListsWithin n (.next s) total

section
variable {s : State} {e : WbInput} {c r n : Nat} {body bs rest : List Byte} {before u x total : Text} {i : Instr}
  {label : Option Word16} {operands : List Instr} {remark : Option (List Byte)}

theorem State.Inside.recordBytes_eq (h : s.Inside e body bs x) : recordBytes s = .ok body := by
  obtain ⟨before, hd, hcur⟩ := h.unread
  obtain ⟨c, hc, hr⟩ := h.rend
  obtain rfl : before.length = c := Option.some.inj (hcur.symm.trans hc)
  rw [recordBytes_of hc hr, hd, run_ofBytes, List.drop_left, Nat.add_sub_cancel_left, List.take_left]

theorem State.Inside.step_lead (h : s.Inside e body bs x) (hpt : s.pt = .lead) (hdec : decode .lead body = .ok (i, rest)) :
    step s = exec i s := by
  have hbytes : nextBytes s = recordBytes s := by rw [nextBytes, hpt]
  have hplace : placeOf s = .lead := by rw [placeOf, hpt]
  exact takeItem_of_decode exec (hbytes.trans h.recordBytes_eq) (hplace ▸ hdec)

theorem State.Inside.step_operand (h : s.Inside e body bs x) (hdec : decode .operand body = .ok (i, rest)) :
    step (s.goto .operand) = exec i (s.goto .operand) :=
  takeItem_of_decode exec (State.Inside.recordBytes_eq (s := s.goto .operand) { h with }) hdec

/-- An operand takes its bytes and prints its text. -/
theorem State.Inside.take {used : List Byte} (h : s.Inside e (used ++ body) bs x) (hc : s.cur = some c) (y : Text)
    (pend : Bool) :
    ({ s with txt := s.txt ++ y, pend := pend, cur := some (c + used.length) } : State).Inside e body bs (x ++ y) := by
  obtain ⟨c', hc', hr⟩ := h.rend
  obtain rfl : c' = c := Option.some.inj (hc'.symm.trans hc)
  have hun : s.Unread (used ++ (body ++ bs)) := List.append_assoc used body bs ▸ h.unread
  exact { h with
    unread := hun.take hc y
    txt := by rw [h.txt]
    rend := ⟨_, rfl, by rw [hr, List.length_append, Nat.add_assoc]⟩ }

/-- The end of a record leaves what stands behind it (R138). -/
theorem State.Inside.afterRecord (h : s.Inside e body bs x) (hr : s.rend = some r) (y : Text) :
    (s.afterRecord y r).Walks e bs (x ++ y ++ [NL]) := by
  obtain ⟨c, hc, hr'⟩ := h.rend
  obtain rfl : r = c + body.length := Option.some.inj (hr.symm.trans hr')
  exact { h with unread := h.unread.take hc y, txt := by rw [State.afterRecord, h.txt] }

/-! ### Operands -/

/-- The scan goes on with the operand that the record's bytes spell (R144). -/
theorem scanLoop_listsWithin_step (h : s.Inside e body bs x) (hbody : body ≠ []) (hdec : decode .operand body = .ok (i, rest))
    (hnext : ListsWithin n (exec i (s.goto .operand)) total) : ListsWithin (n + 1) (scanLoop s) total := by
  obtain ⟨c, hc, hr⟩ := h.rend
  have hloop : scanLoop s = .next (s.goto .operand) :=
    scanLoop_next.2 ⟨c, _, hc, hr, .inl ⟨Nat.lt_add_of_pos_right (List.length_pos_iff.2 hbody), rfl⟩⟩
  rw [hloop]
  exact listsWithin_step (by simp) (h.step_operand hdec ▸ hnext)

theorem execWbLref_of_named {idx : Word16} (h : s.Inside e body bs x) (hname : e.Named idx) (hc : s.cur = some c)
    (hr : s.rend = some r) :
    exec (.wbLref idx) s = .next (s.afterOperand (owedSpace s.pend ++ e.names idx) true (c + 3) r) := by
  obtain ⟨name, hslot, hnames⟩ := hname
  rw [hnames]
  exact execWbLref_of hc hr h.tbl (h.d ▸ hslot)

/-- An operand prints the space it owes and its text, and moves past its bytes (R146 to R151). -/
theorem exec_operand {atEnd : Bool} (h : s.Inside e body bs x) (hfits : operandFits atEnd i = true)
    (hnames : ∀ idx, refIndex i = some idx → e.Named idx) (hc : s.cur = some c) :
    exec i s = scanLoop { s with
      txt := s.txt ++ ((if isOperator i then [] else owedSpace s.pend) ++ operandText e.p e.names i)
      pend := !isOperator i
      cur := some (c + (encode i).length) } := by
  obtain ⟨c', hc', hr⟩ := h.rend
  obtain ⟨-, -, hnumd, hnumh, hnumb, hlogic, hcond, hreg⟩ := wbAtomsPrint s c _ hc hr
  rw [scanLoop_of hr, ← h.p]
  cases i with
  | wbOp b => exact execWbOp_of hc hr b
  | wbStr body closed => exact execWbStr_of hc hr body closed
  | wbLref idx => exact execWbLref_of_named h (hnames idx rfl) hc hr
  | wbNumd v => exact hnumd v
  | wbNumh v => exact hnumh v
  | wbNumb v => exact hnumb v
  | wbLogic b => exact hlogic b
  | wbCond b => exact hcond b
  | wbReg k => exact hreg k
  | _ => cases hfits

/-- A trailing comment ends its line (R145). -/
theorem exec_remark {text : List Byte} (hcol : col before = 0) (h : s.Inside e body bs (before ++ u)) :
    ∃ t, exec (.wbCmt text) s = .next t ∧ t.Walks e bs (before ++ endLine (some text) u) ∧ t.pt = .recordLength := by
  obtain ⟨c, hc, hr⟩ := h.rend
  have hcolumn : col s.txt = col u := by rw [h.txt, col_append_of_lineStart hcol]
  refine ⟨_, execWbCmt_of hr text, ?_, rfl⟩
  rw [hcolumn, endLine_some, ← List.append_assoc, ← List.append_assoc]
  exact State.Inside.afterRecord (s := { s with pend := false }) { h with } hr _

/-- The scan lists the operands of a line and its trailing comment, and goes on with the next record (R144 to R151). -/
theorem scanLoop_listsWithin (hcol : col before = 0) (hs : s.Inside e (lineTail operands remark) bs (before ++ u))
    (hfits : operandsFit remark.isNone operands = true) (hnames : ∀ idx ∈ operands.filterMap refIndex, e.Named idx)
    (hrest : ListsRecords e bs (before ++ endLine remark (operandsText e.p e.names operands u s.pend)) total)
    (hn : (lineTail operands remark ++ bs).length ≤ n) : ListsWithin n (scanLoop s) total := by
  induction operands generalizing s u n with
  | nil =>
    obtain ⟨c, hc, hr⟩ := hs.rend
    cases remark with
    | none =>
      have hloop : scanLoop s = .next (endRecord s) := scanLoop_next.2 ⟨c, _, hc, hr, .inr ⟨Nat.le_refl _, rfl⟩⟩
      rw [hloop]
      refine hrest _ _ { hs with unread := hs.unread, txt := ?_ } rfl hn
      rw [endRecord_txt, hs.txt, List.append_assoc]
      rfl
    | some text =>
      obtain ⟨n, rfl⟩ : ∃ m, n = m + 1 := Nat.exists_eq_succ_of_ne_zero (Nat.ne_zero_of_lt hn)
      refine scanLoop_listsWithin_step hs (List.cons_ne_nil _ _) (decode_wbCmt text) ?_
      obtain ⟨t, hexec, hwalks, hpt⟩ := exec_remark (s := s.goto .operand) (text := text) hcol { hs with }
      rw [hexec]
      refine hrest t n hwalks hpt ?_
      simp only [lineTail, remarkBytes, List.flatMap_nil, List.nil_append, List.cons_append, List.length_cons,
        List.length_append] at hn
      omega
  | cons i operands ih =>
    obtain ⟨c, hc, hr⟩ := hs.rend
    have hdec := decode_lineTail_cons hfits
    simp only [operandsFit, Bool.and_eq_true] at hfits
    obtain ⟨hi, hoperands⟩ := hfits
    have hlen : 0 < (encode i).length := List.length_pos_iff.2 (encode_ne_nil_of_operandFits hi)
    rw [lineTail_cons] at hs hn hdec
    obtain ⟨n, rfl⟩ : ∃ m, n = m + 1 := Nat.exists_eq_succ_of_ne_zero (by simp only [List.length_append] at hn; omega)
    refine scanLoop_listsWithin_step hs (by simp [encode_ne_nil_of_operandFits hi]) hdec ?_
    rw [List.filterMap_cons] at hnames
    rw [exec_operand (s := s.goto .operand) { hs with } hi (fun idx hidx => hnames idx (by simp [hidx])) hc]
    have htaken := State.Inside.take (s := s.goto .operand) { hs with } hc
      ((if isOperator i then [] else owedSpace s.pend) ++ operandText e.p e.names i) (!isOperator i)
    rw [List.append_assoc, ← List.append_assoc u] at htaken
    refine ih htaken hoperands (fun idx hidx => hnames idx ?_) hrest ?_
    · cases href : refIndex i <;> simp [hidx]
    · simp only [List.length_append] at hn ⊢
      omega

/-! ### Leads -/

/-- A comment line ends its record (R141). -/
theorem lead_comment {text : List Byte} (hcol : col before = 0)
    (h : s.AtLead e label (0x01 :: text) bs (before ++ labelText e.names label)) :
    ∃ t, step s = .next t ∧ t.Walks e bs (before ++ (WbRecord.comment label text).text e.p e.names) ∧
      t.pt = .recordLength := by
  obtain ⟨c, hc, hr⟩ := h.rend
  have hcolumn : col s.txt = col (labelText e.names label) := by rw [h.txt, col_append_of_lineStart hcol]
  have htext : (WbRecord.comment label text).text e.p e.names = labelText e.names label ++
      ((if label.isSome = true then spaces (8 - col (labelText e.names label)) else []) ++ 0x3B :: text) ++ [NL] := by
    cases label <;> simp [WbRecord.text, padTo, labelText]
  refine ⟨_, (h.step_lead h.pt (decode_wbLcmt text)).trans (execWbLcmt_of hr text), ?_, rfl⟩
  rw [hcolumn, h.lbl, htext, ← List.append_assoc, ← List.append_assoc]
  exact h.toInside.afterRecord hr _

/-- A mnemonic starts its line, and the scan goes on behind it (R142). -/
theorem lead_mnemonic {m : BitVec 7} (hcol : col before = 0)
    (h : s.AtLead e label (((1 : BitVec 1) ++ m) :: rest) bs (before ++ labelText e.names label)) :
    ∃ t, step s = scanLoop t ∧ t.Inside e rest bs (before ++ startText e.p e.names label m (!rest.isEmpty)) ∧
      t.pend = false := by
  obtain ⟨c, hc, hr⟩ := h.rend
  have hmore : c + 1 < c + (((1 : BitVec 1) ++ m : Byte) :: rest).length ↔ (!rest.isEmpty) = true := by
    cases rest <;> simp
  have hstep := (h.step_lead h.pt (decode_wbLmn m rest)).trans (execWbLmn_of hc hr m)
  rw [← scanLoop_of hr] at hstep
  refine ⟨_, hstep, ?_, h.pend⟩
  have hfirst : s.txt ++ (spaces (8 - col s.txt) ++ dict s.p.wbMnem m.toNat) =
      before ++ (padTo 8 (labelText e.names label) ++ dict e.p.wbMnem m.toNat) := by
    rw [h.txt, col_append_of_lineStart hcol, h.p, padTo]
    simp only [List.append_assoc]
  have hline : before ++ startText e.p e.names label m (!rest.isEmpty) = s.txt ++ ((spaces (8 - col s.txt) ++
      dict s.p.wbMnem m.toNat) ++ if c + 1 < c + (((1 : BitVec 1) ++ m : Byte) :: rest).length then
        spaces (14 - col (s.txt ++ (spaces (8 - col s.txt) ++ dict s.p.wbMnem m.toNat))) else []) := by
    rw [← List.append_assoc, hfirst, col_append_of_lineStart hcol, startText]
    simp only [hmore]
    split
    next => simp only [padTo, List.append_assoc]
    next => rw [List.append_nil]
  rw [hline]
  exact State.Inside.take (used := [(1 : BitVec 1) ++ m]) { h.toInside with txt := rfl } hc _ s.pend

end

end Sys2Proof.Machine
end

section
/-! The WBASS2 walker on a program of records: the pre-pass finds the label table, and the main pass lists the program record by
record (R65, R134 to R139). -/

namespace Sys2Proof.Machine

section
variable {s : State} {e : WbInput} {c n : Nat} {bs rest : List Byte} {x total : Text} {label : Option Word16}
  {operands : List Instr} {remark : Option (List Byte)}

/-! ### Records -/

theorem State.Unread.step_recordLength {b : Byte} (hun : s.Unread (b :: bs)) (hpt : s.pt = .recordLength) :
    step s = exec (decodeLength b) s := by
  obtain ⟨c, hc⟩ := hun.exists_cur
  have hbyte : s.d.read c = some b := hun.read_eq hc 0
  refine takeItem_of_decode exec (bs := [b]) (rest := []) ?_ (by rw [placeOf, hpt]; rfl)
  rw [nextBytes_recordLength hpt hc, run_one, hbyte]
  rfl

/-- A record with a label ends behind it where nothing is left, and else goes on with its lead (R138, R139). -/
theorem State.Walks.step_labelled {idx : Word16} {name : List (BitVec 7)}
    (hw : s.Walks e (BitVec.ofNat 8 (0x80 + n) :: (le16Bytes idx ++ rest)) x) (hpt : s.pt = .recordLength) (hc : s.cur = some c)
    (hle : n ≤ 126) (h2 : 2 ≤ n) (hslot : labelName e.d e.tbl idx.toNat = some name) :
    let s' := { s with pend := false, lbl := true, rend := some (c + 1 + n) }
    (n = 2 → step s = .next (s'.afterRecord (nameText name ++ [0x3A]) (c + 3))) ∧
    (2 < n → step s = .next { s' with cur := some (c + 3), txt := s.txt ++ (nameText name ++ [0x3A]), pt := .lead }) := by
  have hlength : (BitVec.ofNat 7 n).toNat = n := toNat_declaredLength (by omega)
  have hidx : s.d.read16 (c + 1) = some idx := State.Unread.read16_eq (used := [_]) hw.unread hc
  obtain ⟨-, -, -, hlabel⟩ := wbRecordsOpen s c (BitVec.ofNat 7 n) hc
  obtain ⟨-, honly, hmore⟩ := hlabel idx e.tbl (hlength.symm ▸ h2) hidx hw.tbl
  rw [hlength] at honly hmore
  rw [← hw.d] at hslot
  rw [hw.unread.step_recordLength hpt, decodeLength_labelled hle]
  exact ⟨honly name hslot, hmore name hslot⟩

/-- A record's start: its flags are cleared, its end is set, and its label is printed, if it has one (R137 to R139). -/
theorem step_opensRecord
    (hw : s.Walks e (BitVec.ofNat 8 ((if label.isSome then 0x80 else 0) + (labelBytes label ++ rest).length) ::
      (labelBytes label ++ (rest ++ bs))) x) (hpt : s.pt = .recordLength) (hrest : rest ≠ [])
    (hlen : (labelBytes label ++ rest).length ≤ if label.isSome then 126 else 127) (hnamed : ∀ idx ∈ label, e.Named idx) :
    ∃ t, step s = .next t ∧ t.AtLead e label rest bs (x ++ labelText e.names label) := by
  obtain ⟨c, hc⟩ := hw.unread.exists_cur
  have hstep := hw.unread.step_recordLength hpt
  cases label with
  | none =>
    have hlength := toNat_declaredLength hlen
    have hdec := decodeLength_plain (List.length_pos_iff.2 hrest) hlen
    obtain ⟨hexec, -⟩ := wbRecordsOpen s c (BitVec.ofNat 7 rest.length) hc
    refine ⟨_, hstep.trans ((congrArg (exec · s) hdec).trans hexec), { hw with
      unread := ?_, txt := hw.txt.trans (List.append_nil x).symm,
      rend := ⟨c + 1, rfl, congrArg (fun k => some (c + 1 + k)) hlength⟩, pt := rfl, lbl := rfl, pend := rfl }⟩
    exact State.Unread.take (used := [_]) hw.unread hc []
  | some idx =>
    obtain ⟨name, hslot, hname⟩ := hnamed idx rfl
    have hpos : 0 < rest.length := List.length_pos_iff.2 hrest
    have hlength : (labelBytes (some idx) ++ rest).length = 2 + rest.length := List.length_append
    obtain ⟨-, hmore⟩ := hw.step_labelled hpt hc (hlength ▸ hlen) (by omega) hslot
    refine ⟨_, hmore (by omega), { hw with
      unread := ?_, txt := ?_, rend := ⟨c + 3, rfl, ?_⟩, pt := rfl, lbl := rfl, pend := rfl }⟩
    · exact State.Unread.take (used := _ :: le16Bytes idx) hw.unread hc []
    · rw [hw.txt, labelText, hname]
    · rw [hlength]
      exact congrArg some (by omega)

/-- A line with a label alone (R138). -/
theorem step_labelOnly {idx : Word16} (hw : s.Walks e ((WbRecord.labelOnly idx).bytes ++ bs) x) (hpt : s.pt = .recordLength)
    (hnamed : e.Named idx) :
    ∃ t, step s = .next t ∧ t.Walks e bs (x ++ (WbRecord.labelOnly idx).text e.p e.names) ∧ t.pt = .recordLength := by
  obtain ⟨c, hc⟩ := hw.unread.exists_cur
  obtain ⟨name, hslot, hname⟩ := hnamed
  obtain ⟨honly, -⟩ := State.Walks.step_labelled (n := 2) (rest := bs) hw hpt hc (by decide) (Nat.le_refl 2) hslot
  refine ⟨_, honly rfl, { hw with
    unread := State.Unread.take (used := (WbRecord.labelOnly idx).bytes) hw.unread hc [], txt := ?_ }, rfl⟩
  rw [State.afterRecord, hw.txt, WbRecord.text, labelText, hname, List.append_assoc]

/-- The text of a record is a line of its own (R138). -/
theorem exists_text_newline (p : Params) (names : Word16 → Text) (r : WbRecord) : ∃ u, r.text p names = u ++ [NL] := by
  cases r with
  | blank => exact ⟨[], rfl⟩
  | labelOnly idx => exact ⟨_, rfl⟩
  | comment label text => exact ⟨_, rfl⟩
  | line label m operands remark =>
    cases remark with
    | none => exact ⟨_, rfl⟩
    | some text => exact ⟨_, rfl⟩

/-- It is enough to look at the step that takes the length byte. -/
theorem ListsRecords.of_step {b : Byte}
    (h : ∀ (s : State) (n : Nat), s.Walks e (b :: bs) x → step s = exec (decodeLength b) s → s.pt = .recordLength →
      bs.length ≤ n → ListsWithin n (step s) total) : ListsRecords e (b :: bs) x total := by
  intro s n hw hpt hn
  obtain ⟨n, rfl⟩ : ∃ m, n = m + 1 := Nat.exists_eq_succ_of_ne_zero (Nat.ne_zero_of_lt hn)
  exact listsWithin_step (by simp [hpt]) (h s n hw (hw.unread.step_recordLength hpt) hpt (Nat.le_of_succ_le_succ hn))

/-- The end marker ends the listing (R134). -/
theorem listsRecords_end (e : WbInput) (table : List Byte) (x : Text) : ListsRecords e (0xFF :: table) x x := by
  refine .of_step fun s n hw hstep _ _ => ?_
  have hend : step s = .next (s.listed s.txt) := hstep
  rw [hend, hw.txt]
  exact listsWithin_listed n s x

/-- A blank record is an empty line (R136). -/
theorem ListsRecords.blank (hrest : ListsRecords e bs (x ++ WbRecord.blank.text e.p e.names) total) :
    ListsRecords e (WbRecord.blank.bytes ++ bs) x total := by
  refine .of_step fun s n hw hstep _ hn => ?_
  obtain ⟨c, hc⟩ := hw.unread.exists_cur
  obtain ⟨-, -, -, -, hblank⟩ := wbPassesOverRecords
  have hprint : step s = _ := hstep.trans (hblank s c hc)
  rw [hprint]
  refine hrest _ n { hw with unread := hw.unread.take (used := [_]) hc [], txt := ?_ } rfl hn
  rw [State.afterRecord, List.append_nil, hw.txt]
  rfl

theorem ListsRecords.labelOnly {idx : Word16} (hnamed : e.Named idx)
    (hrest : ListsRecords e bs (x ++ (WbRecord.labelOnly idx).text e.p e.names) total) :
    ListsRecords e ((WbRecord.labelOnly idx).bytes ++ bs) x total := by
  refine .of_step fun s n hw _ hpt hn => ?_
  obtain ⟨t, hstep, hwalks, hpt'⟩ := step_labelOnly hw hpt hnamed
  rw [hstep]
  exact hrest t n hwalks hpt' (Nat.le_trans (Nat.le_add_right bs.length 2) hn)

/-- A comment line is two items: its length byte, and the comment (R138, R141). -/
theorem ListsRecords.comment {text : List Byte} (hfits : (WbRecord.comment label text).fits = true)
    (hnamed : ∀ idx ∈ label, e.Named idx) (hcol : col x = 0)
    (hrest : ListsRecords e bs (x ++ (WbRecord.comment label text).text e.p e.names) total) :
    ListsRecords e ((WbRecord.comment label text).bytes ++ bs) x total := by
  have hbytes : (WbRecord.comment label text).body ++ bs = labelBytes label ++ (0x01 :: text ++ bs) := List.append_assoc _ _ _
  rw [WbRecord.bytes, List.cons_append, hbytes]
  refine .of_step fun s n hw _ hpt hn => ?_
  obtain ⟨t, hstep, hlead⟩ := step_opensRecord hw hpt (List.cons_ne_nil _ _) (length_body_le hfits) hnamed
  obtain ⟨t', hstep', hwalks, hpt'⟩ := lead_comment hcol hlead
  simp only [List.length_append, List.length_cons] at hn
  obtain ⟨n, rfl⟩ : ∃ m, n = m + 1 := Nat.exists_eq_succ_of_ne_zero (by omega)
  rw [hstep]
  refine listsWithin_step (by simp [hlead.pt]) ?_
  rw [hstep']
  exact hrest t' n hwalks hpt' (by omega)

/-- An instruction line is its length byte, its mnemonic, and what the scan lists (R138, R142, R144). -/
theorem ListsRecords.line {m : BitVec 7} (hfits : (WbRecord.line label m operands remark).fits = true)
    (hnamed : ∀ idx ∈ (WbRecord.line label m operands remark).labels, e.Named idx) (hcol : col x = 0)
    (hrest : ListsRecords e bs (x ++ (WbRecord.line label m operands remark).text e.p e.names) total) :
    ListsRecords e ((WbRecord.line label m operands remark).bytes ++ bs) x total := by
  have hlen := length_body_le hfits
  rw [WbRecord.fits, Bool.and_eq_true] at hfits
  obtain ⟨-, hoperands⟩ := hfits
  have hbytes : (WbRecord.line label m operands remark).body ++ bs =
      labelBytes label ++ (((1 : BitVec 1) ++ m) :: lineTail operands remark ++ bs) := List.append_assoc _ _ _
  rw [WbRecord.bytes, List.cons_append, hbytes]
  refine .of_step fun s n hw _ hpt hn => ?_
  obtain ⟨t, hstep, hlead⟩ := step_opensRecord hw hpt (List.cons_ne_nil _ _) hlen
    fun idx hidx => hnamed idx (List.mem_append_left _ (Option.mem_toList.2 hidx))
  obtain ⟨t', hstep', hinside, hpend⟩ := lead_mnemonic hcol hlead
  simp only [List.length_append, List.length_cons] at hn
  obtain ⟨n, rfl⟩ : ∃ m, n = m + 1 := Nat.exists_eq_succ_of_ne_zero (by omega)
  rw [hstep]
  refine listsWithin_step (by simp [hlead.pt]) ?_
  rw [hstep']
  rw [WbRecord.text_line hoperands, ← hpend] at hrest
  refine scanLoop_listsWithin hcol hinside hoperands (fun idx hidx => hnamed idx (List.mem_append_right _ hidx)) hrest ?_
  rw [List.length_append]
  omega

/-- The main pass lists a record that fits, and goes on with what stands behind it (R136 to R151). -/
theorem ListsRecords.cons {r : WbRecord} (hfits : r.fits = true) (hnamed : ∀ idx ∈ r.labels, e.Named idx) (hcol : col x = 0)
    (hrest : ListsRecords e bs (x ++ r.text e.p e.names) total) : ListsRecords e (r.bytes ++ bs) x total := by
  cases r with
  | blank => exact hrest.blank
  | labelOnly idx => exact .labelOnly (hnamed idx (List.mem_singleton_self idx)) hrest
  | comment label text => exact .comment hfits (fun idx hidx => hnamed idx (Option.mem_toList.2 hidx)) hcol hrest
  | line label m operands remark => exact .line hfits hnamed hcol hrest

/-- The main pass lists the records of a program, up to its end marker (R134, R137). -/
theorem listsRecords_program {records : List WbRecord} (table : List Byte) (hfits : ∀ r ∈ records, r.fits = true)
    (hnamed : ∀ r ∈ records, ∀ idx ∈ r.labels, e.Named idx) (hcol : col x = 0) :
    ListsRecords e (records.flatMap WbRecord.bytes ++ 0xFF :: table) x
      (x ++ records.flatMap (WbRecord.text e.p e.names)) := by
  induction records generalizing x with
  | nil =>
    rw [List.flatMap_nil, List.flatMap_nil, List.append_nil]
    exact listsRecords_end e table x
  | cons r records ih =>
    rw [List.forall_mem_cons] at hfits hnamed
    obtain ⟨hfit, hfits⟩ := hfits
    obtain ⟨hname, hnamed⟩ := hnamed
    obtain ⟨u, hu⟩ := exists_text_newline e.p e.names r
    have hline : col (x ++ r.text e.p e.names) = 0 := by rw [hu, ← List.append_assoc, col_append_newline]
    rw [List.flatMap_cons, List.flatMap_cons, List.append_assoc, ← List.append_assoc x]
    exact .cons hfit hname hcol (ih hfits hnamed hline)

/-! ### The pre-pass -/

theorem step_prepass {before : List Byte} {b : Byte} (hd : s.d = Memory.ofBytes (before ++ b :: bs))
    (hpt : s.pt = .prepass before.length) : step s = exec (.wbPrepass b) s := by
  have hbyte : s.d.run before.length 1 = [b] := by rw [hd, run_ofBytes, List.drop_left]; rfl
  refine takeItem_of_decode exec (bs := [b]) (rest := []) ?_ (by rw [placeOf, hpt]; rfl)
  rw [← hbyte, nextBytes, hpt]

/-- The pre-pass skips the records of a program, and starts the main pass with the table behind the end marker (R134, R135). -/
theorem prepass_listsWithin {records : List WbRecord} {before table : List Byte} (hfits : ∀ r ∈ records, r.fits = true)
    (hd : s.d = Memory.ofBytes (before ++ (records.flatMap WbRecord.bytes ++ 0xFF :: table)))
    (hpt : s.pt = .prepass before.length) {tbl : Nat}
    (htbl : tbl = before.length + (records.flatMap WbRecord.bytes).length + 1)
    (hmain : ListsWithin n (.next { s with tbl := some tbl, cur := some 1, pt := .recordLength }) total) :
    ListsWithin (n + records.length + 1) (.next s) total := by
  obtain ⟨-, hmarker, hskip, -⟩ := wbPassesOverRecords
  induction records generalizing s before with
  | nil =>
    refine listsWithin_step (by simp [hpt]) ?_
    rw [step_prepass (bs := table) hd hpt, hmarker s before.length hpt]
    exact htbl ▸ hmain
  | cons r records ih =>
    obtain ⟨hbyte, hlength⟩ := lengthByte_of_fits (hfits r List.mem_cons_self)
    rw [List.flatMap_cons, List.append_assoc] at hd
    have hskipped : before.length + 1 + r.body.length = (before ++ r.bytes).length := by
      rw [List.length_append, WbRecord.bytes, List.length_cons]
      omega
    refine listsWithin_step (by simp [hpt]) ?_
    rw [step_prepass hd hpt, hskip s before.length _ hpt hbyte, hlength, hskipped]
    refine ih (s := { s with pt := _ }) (before := before ++ r.bytes) (fun r' hr' => hfits r' (List.mem_cons_of_mem r hr'))
      (by rw [List.append_assoc]; exact hd) rfl ?_ hmain
    rw [htbl, List.flatMap_cons, List.length_append, List.length_append]
    omega

/-- Every record has its length byte (R66). -/
theorem length_le_length_bytes (records : List WbRecord) : records.length ≤ (records.flatMap WbRecord.bytes).length := by
  rw [List.length_flatMap]
  simpa using List.length_le_sum_of_one_le (records.map fun r => r.bytes.length) (by simp [WbRecord.bytes])

/-- The signature stands, and the pre-pass begins (R134). -/
theorem step_wbSignature (hd : s.d = Memory.ofBytes (0xFD :: bs)) (hpt : s.pt = .wbSignature) :
    step s = .next { s with pt := .prepass 1 } := by
  refine takeItem_of_decode exec (bs := [0xFD]) (rest := []) (i := .wbFile) ?_ (by rw [placeOf, hpt]; rfl)
  have hbyte : s.d.run 0 1 = [0xFD] := by rw [hd]; rfl
  rw [← hbyte, nextBytes, hpt]

end

/-- An operation that lists a text keeps the ports and ends at dispatch (R21, R170). -/
theorem exec_lists {s : State} {o : Operation} {x : Text} (h : ListsWithin (itemBound s) (.next (s.enter o)) x) :
    ∃ t, exec (decodeTag (.legal o)) s = .next t ∧ s.SamePorts t ∧ t.pt = .dispatch ∧ t.res = some (.text x) := by
  obtain ⟨u, t, hu, hrun, hres⟩ := h
  cases hu
  have hexec := (exec_legal o s).trans hrun
  obtain ⟨-, hpt⟩ := runItems_keeps (P := fun _ => True) (fun _ _ _ _ _ => trivial) trivial hrun
  exact ⟨t, hexec, exec_samePorts hexec, hpt, hres⟩

/-- Settles O60: the pre-pass finds the table, and the main pass lists record by record. -/
theorem assemblerProgramsAreListed : Obligations.AssemblerProgramsAreListed := by
  intro s records table names hfits hd hnamed
  rw [List.append_assoc] at hd
  have hsize : s.d.size = 1 + ((records.flatMap WbRecord.bytes).length + (1 + table.length)) := by
    rw [hd, ofBytes_size, List.length_cons, List.length_append, List.length_append, List.length_singleton, Nat.add_comm]
  have hrecords := length_le_length_bytes records
  obtain ⟨n, hbound⟩ : ∃ n, itemBound s = n + records.length + 1 + 1 :=
    ⟨itemBound s - records.length - 2, by simp only [itemBound]; omega⟩
  have hlists := listsRecords_program (e := ⟨s.d, s.p, 2 + (records.flatMap WbRecord.bytes).length, names⟩) (x := []) table
    hfits hnamed rfl
  have hmain := hlists { s.enter .wb2 with
      tbl := some (2 + (records.flatMap WbRecord.bytes).length), cur := some 1, pt := .recordLength } n
    ⟨rfl, rfl, rfl, ⟨[0xFD], hd, rfl⟩, rfl⟩ rfl (by
      simp only [itemBound] at hbound
      rw [List.length_append, List.length_cons]
      omega)
  have hprepass := prepass_listsWithin (s := { s.enter .wb2 with pt := .prepass 1 }) (before := [0xFD]) hfits hd rfl
    (by rw [List.length_singleton]; omega) hmain
  rw [← step_wbSignature (s := s.enter .wb2) hd rfl] at hprepass
  exact exec_lists (o := .wb2) (hbound ▸ listsWithin_step (by simp [entryPoint]) hprepass)

end Sys2Proof.Machine
end

section
/-! Whole invocations, from dispatch to dispatch (R156 to R160): what a failed or refused one leaves, and that it can be run
again. -/

namespace Sys2Proof.Machine

/-! ### Invocations -/

/-- An invocation keeps what holds where its operation begins and every item keeps, or it is the failure of an unknown tag;
either way it ends at dispatch (R156, R171). -/
theorem step_dispatch_keeps {P : State → Prop} {s t : State} (hpt : s.pt = .dispatch) (hstep : step s = .next t)
    (henter : ∀ o, P (s.enter o)) (hunknown : ∀ k, P (s.fresh.raise .unknownFormat k))
    (hitem : ∀ u v, P u → u.pt ≠ .dispatch → step u = .next v → P v) : P t ∧ t.pt = .dispatch := by
  rw [step_dispatch hpt] at hstep
  cases htag : s.tag with
  | legal o =>
    rw [htag, exec_legal] at hstep
    exact runItems_keeps hitem (henter o) hstep
  | other k =>
    rw [htag, exec_other] at hstep
    cases hstep
    exact ⟨hunknown k, rfl⟩

theorem step_dispatch_pt {s t : State} (hpt : s.pt = .dispatch) (hstep : step s = .next t) : t.pt = .dispatch :=
  (step_dispatch_keeps (P := fun _ => True) hpt hstep (fun _ => trivial) (fun _ => trivial) fun _ _ _ _ _ => trivial).2

/-- Settles O20: an unknown tag decodes to its failure, a legal one to its operation. -/
theorem unknownTagFails : Obligations.UnknownTagFails := by
  refine ⟨fun s n => exec_other n s, fun s n hpt htag => ?_, fun s o hpt htag => ?_⟩
  · rw [step_dispatch hpt, htag, exec_other, raise_eq_failed]
  · rw [step_dispatch hpt, htag]

/-- Settles O15: the end of an invocation stands at dispatch with the ports it began with, and these alone decide a run. -/
theorem rerunGivesTheSameResult : Obligations.RerunGivesTheSameResult := by
  intro s t hpt hstep
  have hend : t.pt = .dispatch := step_dispatch_pt hpt hstep
  exact ⟨hend, (step_eq_of_samePorts hpt hend (step_samePorts hstep)).symm.trans hstep⟩

/-! ### Failures and refusals -/

/-- What the machine's `refuse` leaves is the refused end in which the statements speak (R158). -/
theorem refuse_eq_unmodelled (s : State) (u : Reason) : s.refuse u = s.unmodelled u := rfl

/-- `RES` is empty until the invocation ends, and neither text nor buffer is left where it is a failure or a refusal (R26,
R157, R158). -/
structure State.WithholdsOnFailure (s : State) : Prop where
  unwritten : s.pt ≠ .dispatch → s.res = none
  discarded : ((∃ e info, s.res = some (.fail e info)) ∨ ∃ u, s.res = some (.unmodelled u)) → s.txt = [] ∧ s.buf = none

section
variable {s t : State}

theorem withholds_of_unwritten (h : s.res = none) : s.WithholdsOnFailure where
  unwritten := fun _ => h
  discarded := by simp [h]

theorem raise_withholds (s : State) (e : Err) (info : Int) : (s.raise e info).WithholdsOnFailure where
  unwritten := fun hpt => absurd rfl hpt
  discarded := fun _ => ⟨rfl, rfl⟩

theorem refuse_withholds (s : State) (u : Reason) : (s.refuse u).WithholdsOnFailure where
  unwritten := fun hpt => absurd rfl hpt
  discarded := fun _ => ⟨rfl, rfl⟩

theorem deliverText_withholds (s : State) : s.deliverText.WithholdsOnFailure where
  unwritten := fun hpt => absurd rfl hpt
  discarded := by simp

theorem deliverImage_withholds (s : State) (b : Buf) : (s.deliverImage b).WithholdsOnFailure where
  unwritten := fun hpt => absurd rfl hpt
  discarded := by simp

/-- Only the end of an invocation writes `RES` (R26). -/
theorem ItemWrites.res {i : Instr} (h : ItemWrites s i t) : t.res = s.res := by
  cases h <;> rfl

theorem ItemEnds.withholds (h : ItemEnds s t) (hres : s.res = none) : t.WithholdsOnFailure := by
  cases h with
  | goto pt => exact withholds_of_unwritten hres
  | image b => exact deliverImage_withholds s b
  | text => exact deliverText_withholds s
  | fails e info => exact raise_withholds s e info

theorem ItemRuns.withholds {i : Instr} (h : ItemRuns s i t) (hres : s.res = none) : t.WithholdsOnFailure := by
  cases h with
  | done hw he => exact he.withholds (hw.res.trans hres)
  | fails e info => exact raise_withholds s e info
  | refuses u => exact refuse_withholds s u
  | ends => exact deliverText_withholds s
  | cut => exact raise_withholds _ _ _

theorem step_keeps_withholds (h : s.WithholdsOnFailure) (hpt : s.pt ≠ .dispatch) (hstep : step s = .next t) :
    t.WithholdsOnFailure := by
  obtain ⟨i, bs, rest, hdec, hrun⟩ | ⟨e, info, rfl⟩ := takeItem_next hstep
  · exact (exec_runs (nextItem_isItem hpt hdec) hrun).withholds (h.unwritten hpt)
  · exact raise_withholds s e info

theorem invocation_withholds (hpt : s.pt = .dispatch) (hstep : step s = .next t) : t.WithholdsOnFailure :=
  (step_dispatch_keeps hpt hstep (fun _ => withholds_of_unwritten rfl) (raise_withholds s.fresh .unknownFormat ·)
    fun _ _ => step_keeps_withholds).1

end

/-- Settles O17: an exception leaves the block at dispatch, where a run has no further item; and an item ends an invocation
with `RES` still empty, so that a failure or a refusal in it is the exception's own, which discards text and buffer. -/
theorem failureDeliversNothing : Obligations.FailureDeliversNothing := by
  refine ⟨fun s e info n => ⟨raise_eq_failed s e info, runItems_of_dispatch rfl n⟩,
    fun s u n => ⟨refuse_eq_unmodelled s u, runItems_of_dispatch rfl n⟩, fun s t hpt hstep hfail => ?_⟩
  obtain ⟨htxt, hbuf⟩ := (invocation_withholds hpt hstep).discarded hfail
  exact ⟨htxt, hbuf, step_samePorts hstep⟩

end Sys2Proof.Machine
end

section
/-! Every invocation starts in the reset state and ends: whatever the operation and whatever its input, every item leaves fewer
items than there were (R40, R169, R171, R173). -/

namespace Sys2Proof.Machine

/-! ### The start of an invocation -/

/-- An operation begins, and a load leaves, a fresh state: of what is no port, only the operation and the place differ. -/
theorem starts_fresh {s t : State} (h : (∃ o, t = s.enter o) ∨ ∃ tag bytes cfg, t = s.load tag bytes cfg) :
    ∃ (u : State) (op : Option Operation) (pt : Point), t = { u.fresh with op := op, pt := pt } := by
  obtain ⟨o, rfl⟩ | ⟨tag, bytes, cfg, rfl⟩ := h
  · exact ⟨s, some o, entryPoint o, rfl⟩
  · exact ⟨{ s with tag := tag, d := Memory.ofBytes bytes, cfg := cfg }, none, .dispatch, rfl⟩

@[simp] theorem fresh_pal (s : State) (j : Fin 16) : s.fresh.pal[j] = none := by simp [State.fresh, State.reset]

/-- Settles O7: the ports are as loaded, and every other register is that of a fresh state. -/
theorem invocationStartsInResetState : Obligations.InvocationStartsInResetState := by
  refine ⟨fun s o => exec_legal o s, fun s tag bytes cfg => ⟨rfl, rfl, rfl, rfl, read_ofBytes bytes⟩, fun s t h => ?_⟩
  obtain ⟨u, op, pt, rfl⟩ := starts_fresh h
  exact ⟨rfl, rfl, rfl, rfl, rfl, rfl, rfl, rfl, rfl, rfl, rfl, rfl, rfl, fresh_pal u, rfl, rfl, rfl, rfl, rfl, rfl, rfl, rfl,
    rfl⟩

/-! ### How many items are left -/

/-- At most so many items of a walker are left at `cur` in an input of `size` bytes: each of them moves the pre-pass or the
cursor on, but for the signature and the name in a label slot (R109, R110, R134, R135, R139, R144). -/
def Point.walkerItemsLeft (size cur : Nat) : Point → Nat
  | .basSignature => size + 2
  | .wbSignature => size + size + 3
  | .prepass p => (size - p) + size + 2
  | .basToken | .recordLength | .lead | .operand => size - cur + 1
  | .bcd | .labelSlot _ => size - cur + 2
  | _ => 0

/-- At most so many items of an invocation are left; a place counts for its own operation alone, and a stamp has at most four
pixels for each byte (R105, R171). -/
def State.itemsLeft (s : State) : Nat :=
  s.pt.screenItemsLeft + s.pt.stampItemsLeft (4 * s.d.size) + s.pt.walkerItemsLeft s.d.size (s.cur.getD 0)

section
variable {s t : State} {pt : Point}

theorem itemsLeft_of (h : s.pt = pt) :
    s.itemsLeft = pt.screenItemsLeft + pt.stampItemsLeft (4 * s.d.size) + pt.walkerItemsLeft s.d.size (s.cur.getD 0) := by
  rw [State.itemsLeft, h]

theorem itemsLeft_of_dispatch (h : s.pt = .dispatch) : s.itemsLeft = 0 := itemsLeft_of h

theorem itemsLeft_of_paletteWord {src : PalSource} {i : Fin 16} (h : s.pt = .paletteWord src i) :
    s.itemsLeft = 0x20000 + (16 - i.val) := itemsLeft_of h

/-- A pixel loop has at most two items for each address that is left (R92, R94, R99). -/
theorem itemsLeft_of_address {a : Nat} (h : s.pt = .nibbles a ∨ s.pt = .packedRgb a ∨ s.pt = .group a) :
    s.itemsLeft = 2 * (0x10000 - a) := by
  obtain h | h | h := h
  all_goals exact itemsLeft_of h

theorem itemsLeft_of_groupPixel {a : Nat} {j : Fin 4} (h : s.pt = .groupPixel a j) :
    s.itemsLeft = 2 * (0x10000 - a) - 1 - j.val := itemsLeft_of h

theorem itemsLeft_of_stampPair {i : Nat} (h : s.pt = .stampPair i) : s.itemsLeft = 4 * s.d.size - i :=
  (itemsLeft_of h).trans (Nat.zero_add _)

theorem itemsLeft_of_prepass {p : Nat} (h : s.pt = .prepass p) : s.itemsLeft = (s.d.size - p) + s.d.size + 2 :=
  (itemsLeft_of h).trans (Nat.zero_add _)

/-- A walker has at most one item for each byte from the cursor on, and one more. -/
theorem itemsLeft_of_cur {c : Nat} (hc : s.cur = some c)
    (h : s.pt = .basToken ∨ s.pt = .recordLength ∨ s.pt = .lead ∨ s.pt = .operand) : s.itemsLeft = s.d.size - c + 1 := by
  obtain h | h | h | h := h
  all_goals
    rw [itemsLeft_of h, hc]
    exact Nat.zero_add _

/-- The bound of R171 holds where an operation begins. -/
theorem enter_itemsLeft_le (s : State) (o : Operation) : (s.enter o).itemsLeft ≤ itemBound s := by
  have hsize : (s.enter o).d.size = s.d.size := rfl
  rw [itemsLeft_of (pt := entryPoint o) rfl, hsize, itemBound]
  cases o with
  | screen f => simp only [entryPoint, Point.screenItemsLeft, Point.stampItemsLeft, Point.walkerItemsLeft]; omega
  | bas | wb2 | stp => simp only [entryPoint, Point.screenItemsLeft, Point.stampItemsLeft, Point.walkerItemsLeft]; omega

/-! ### Screens -/

theorem finishScreen_itemsLeft (h : finishScreen s = .next t) : t.itemsLeft = 0 := by
  obtain ⟨f, b, -, -, ⟨-, rfl⟩ | ⟨-, pal, -, rfl⟩⟩ := finishScreen_next.1 h
  · exact itemsLeft_of_dispatch rfl
  · exact itemsLeft_of_dispatch rfl

/-- The places of the pixel loops are no places of a stamp or of a walker. -/
theorem firstItem_itemsLeft {f : Screen} {beg : Word16} {eff : Nat} (h : firstItem f beg.toNat eff = some pt) :
    (s.goto pt).itemsLeft ≤ 0x20000 := by
  have hle := screenItemsLeft_first h
  unfold firstItem at h
  split at h
  all_goals
    obtain ⟨-, h⟩ := Option.ite_none_right_eq_some.1 h
    cases h
    exact hle

theorem startPixels_itemsLeft (h : startPixels s = .next t) : t.itemsLeft ≤ 0x20000 := by
  obtain ⟨f, beg, eff, -, -, -, ⟨pt, hpt, rfl⟩ | ⟨-, h⟩⟩ := startPixels_next.1 h
  · exact firstItem_itemsLeft hpt
  · rw [finishScreen_itemsLeft h]
    exact Nat.zero_le _

/-- The resolver goes on at the first palette word at most (R78). -/
theorem palFallback_itemsLeft (h : palFallback s = .next t) : t.itemsLeft ≤ 0x20000 + 16 := by
  unfold palFallback at h
  split at h
  next e _ =>
    split at h
    next => cases h; exact Nat.zero_le _
    next => cases h; exact le_rfl
  next => exact (startPixels_itemsLeft h).trans (by decide)

theorem palResolve_itemsLeft (h : palResolve s = .next t) : t.itemsLeft ≤ 0x20000 + 16 := by
  simp only [palResolve, needScreen_next, need_next] at h
  obtain ⟨f, -, beg, -, fin, -, h⟩ := h
  split at h
  next => exact palFallback_itemsLeft h
  next po _ =>
    split at h
    next =>
      split at h
      next => cases h; exact Nat.zero_le _
      next base _ =>
        split at h
        next => cases h; exact Nat.zero_le _
        next => cases h; exact le_rfl
    next => exact palFallback_itemsLeft h

theorem execScrhdr_itemsLeft {beg fin : Word16} (h : execScrhdr beg fin s = .next t) : t.itemsLeft < 0x20000 + 17 := by
  obtain ⟨f, -, ⟨-, rfl⟩ | ⟨-, -, -, rfl⟩ | ⟨-, -, ⟨-, h⟩ | ⟨-, h⟩⟩⟩ := execScrhdr_next h
  · exact Nat.succ_pos _
  · exact Nat.succ_pos _
  · exact Nat.lt_succ_of_le (palResolve_itemsLeft h)
  · exact (startPixels_itemsLeft h).trans_lt (by decide)

theorem execPalword_itemsLeft {r g b : BitVec 3} {src : PalSource} {i : Fin 16} (hpt : s.pt = .paletteWord src i)
    (h : execPalword r g b s = .next t) : t.itemsLeft < s.itemsLeft := by
  have hleft := itemsLeft_of_paletteWord hpt
  rw [execPalword, needPaletteIndex_of hpt] at h
  dsimp only at h
  split at h
  next hi =>
    cases h
    rw [itemsLeft_of_paletteWord (i := ⟨i.val + 1, hi⟩) rfl]
    dsimp only
    omega
  next hi =>
    have := startPixels_itemsLeft h
    omega

/-- The loops of variants A and B go on at the next address, or end the picture (R92, R94). -/
theorem nextAddress_itemsLeft {a eff : Nat} (hpt : pt = .nibbles (a + 1) ∨ pt = .packedRgb (a + 1)) (ha : a < 0x10000)
    (h : (a + 1 < eff ∧ t = s.goto pt) ∨ (eff ≤ a + 1 ∧ finishScreen s = .next t)) : t.itemsLeft < 2 * (0x10000 - a) := by
  obtain ⟨-, rfl⟩ | ⟨-, h⟩ := h
  · rw [itemsLeft_of_address (a := a + 1) (hpt.imp_right .inl)]
    omega
  · rw [finishScreen_itemsLeft h]
    omega

theorem execNib_itemsLeft {hi lo : BitVec 4} {a : Nat} (hpt : s.pt = .nibbles a) (ha : a < 0x10000)
    (h : execNib hi lo s = .next t) : t.itemsLeft < s.itemsLeft := by
  obtain ⟨a', rb, b, hpt', -, -, h⟩ := execNib_next h
  obtain rfl : a = a' := Point.nibbles.inj (hpt.symm.trans hpt')
  obtain ⟨eff, -, h⟩ := nextNibbles_next.1 h
  exact itemsLeft_of_address (.inl hpt) ▸ nextAddress_itemsLeft (.inl rfl) ha h

theorem execRgb8_itemsLeft {g r : BitVec 3} {b : BitVec 2} {a : Nat} (hpt : s.pt = .packedRgb a) (ha : a < 0x10000)
    (h : execRgb8 g r b s = .next t) : t.itemsLeft < s.itemsLeft := by
  obtain ⟨a', w, b, hpt', -, -, h⟩ := execRgb8_next h
  obtain rfl : a = a' := Point.packedRgb.inj (hpt.symm.trans hpt')
  obtain ⟨eff, -, h⟩ := nextPackedRgb_next.1 h
  exact itemsLeft_of_address (.inr (.inl hpt)) ▸ nextAddress_itemsLeft (.inr rfl) ha h

theorem execYjkgrp_itemsLeft {g0 g1 g2 g3 : Byte} {a : Nat} (hpt : s.pt = .group a) (ha : a < 0x10000)
    (h : execYjkgrp g0 g1 g2 g3 s = .next t) : t.itemsLeft < s.itemsLeft := by
  obtain ⟨a', hpt', rfl⟩ := execYjkgrp_next h
  obtain rfl : a = a' := Point.group.inj (hpt.symm.trans hpt')
  rw [itemsLeft_of_groupPixel (a := a) (j := 0) rfl, itemsLeft_of_address (.inr (.inr hpt))]
  omega

/-- A group has five items for its four addresses (R99). -/
theorem drawGroupPixel_itemsLeft {a : Nat} {j : Fin 4} {c : Rgba} (hpt : s.pt = .groupPixel a j) (ha : a + 4 < 0x10000)
    (h : drawGroupPixel s c = .next t) : t.itemsLeft < s.itemsLeft := by
  rw [itemsLeft_of_groupPixel hpt]
  rw [drawGroupPixel, needGroupPixel_of hpt] at h
  obtain ⟨w, -, h⟩ := need_next.1 h
  obtain ⟨b, -, h⟩ := need_next.1 h
  obtain ⟨hj, rfl⟩ | ⟨-, h⟩ := nextGroupPixel_next.1 h
  · rw [itemsLeft_of_groupPixel (a := a) (j := ⟨j.val + 1, hj⟩) rfl]
    dsimp only
    omega
  · obtain ⟨eff, -, ⟨-, rfl⟩ | ⟨-, h⟩⟩ := nextGroup_next.1 h
    · rw [itemsLeft_of_address (a := a + 4) (.inr (.inr rfl))]
      omega
    · rw [finishScreen_itemsLeft h]
      omega

/-! ### Stamps -/

theorem stampFrom_itemsLeft {i : Nat} (h : stampFrom s i = .next t) : t.itemsLeft ≤ 4 * s.d.size - i := by
  obtain ⟨n, -, ⟨-, rfl⟩ | ⟨-, h⟩⟩ := stampFrom_next.1 h
  · exact (itemsLeft_of_stampPair rfl).le
  · obtain ⟨b, -, rfl⟩ := finishStamp_next.1 h
    exact Nat.zero_le _

theorem execStphdr_itemsLeft {sw sh : Word16} (h : execStphdr sw sh s = .next t) : t.itemsLeft < 4 * s.d.size + 1 := by
  obtain ⟨-, rfl⟩ | ⟨-, h⟩ := execStphdr_next h
  · exact Nat.succ_pos _
  · exact Nat.lt_succ_of_le (stampFrom_itemsLeft h)

/-- A byte of the payload has four pixels (R105). -/
theorem stampPixel_lt {i n : Nat} (hi : i < n) (hsize : 4 + ceilDiv n 4 ≤ s.d.size) : i < 4 * s.d.size := by
  rw [ceilDiv] at hsize
  omega

theorem drawStamp_itemsLeft {i : Nat} {v : BitVec 4} (hpt : s.pt = .stampPair i) (hi : i < 4 * s.d.size)
    (h : drawStamp v s = .next t) : t.itemsLeft < s.itemsLeft := by
  have hleft := itemsLeft_of_stampPair hpt
  rw [drawStamp, needStampIndex_of hpt] at h
  obtain ⟨w, -, h⟩ := need_next.1 h
  obtain ⟨b, -, h⟩ := need_next.1 h
  have hnext := stampFrom_itemsLeft h
  rw [State.withBuf_d] at hnext
  omega

/-! ### The bytes of a walker's item -/

/-- A run that is not empty begins inside its space. -/
theorem lt_of_run_ne_nil {m : Memory} (hm : m.wf) {off n : Nat} (h : m.run off n ≠ []) : off < m.size ∧ 0 < n := by
  cases n with
  | zero => exact absurd rfl h
  | succ n =>
    have hread : m.read off ≠ none := fun hnone => h (run_succ_of_none n hnone)
    exact ⟨(read_isSome_iff hm off).1 (Option.isSome_iff_ne_none.2 hread), Nat.succ_pos n⟩

/-- No item but an operation is spelled by no bytes. -/
theorem ne_nil_of_decode {bs rest : List Byte} {i : Instr} (hpt : s.pt ≠ .dispatch)
    (hdec : decode (placeOf s) bs = .ok (i, rest)) : bs ≠ [] := by
  have hplace : ∀ tag, placeOf s ≠ .operation tag := by
    intro tag h
    unfold placeOf at h
    split at h
    next hdispatch => exact hpt hdispatch
    all_goals cases h
  obtain ⟨-, first, more, rfl⟩ := decode_wellRead hplace bs i rest hdec
  exact List.cons_ne_nil _ _

/-! ### BASIC -/

theorem Lists.itemsLeft_le {c : Nat} (h : Lists s t) (hc : s.cur = some c) : t.itemsLeft ≤ s.d.size - c + 1 := by
  obtain rfl | rfl := h
  · exact (itemsLeft_of_cur (s := s.goto .basToken) hc (.inl rfl)).le
  · exact Nat.zero_le _

theorem emitToken_itemsLeft {c len : Nat} {x : Text} (hc : s.cur = some c) (h : emitToken s x len = .next t) :
    t.itemsLeft ≤ s.d.size - (c + len) + 1 := by
  obtain ⟨c', hc', h⟩ := emitToken_lists h
  obtain rfl : c = c' := Option.some.inj (hc.symm.trans hc')
  exact Lists.itemsLeft_le (s := (s.emit x).withCur (c + len)) h rfl

theorem startLine_itemsLeft {c : Nat} (hc : s.cur = some c) (h : startLine s = .next t) :
    t.itemsLeft ≤ s.d.size - c + 1 := by
  obtain rfl | ⟨off, rfl⟩ | ⟨c', x, hc', h⟩ := startLine_lists h
  · exact Nat.zero_le _
  · exact Nat.zero_le _
  · obtain rfl : c = c' := Option.some.inj (hc.symm.trans hc')
    have hle := Lists.itemsLeft_le (s := (s.emit x).withCur (c + 4)) h rfl
    exact hle.trans (Nat.succ_le_succ (Nat.sub_le_sub_left (Nat.le_add_right c 4) s.d.size))

/-- Every token, and the zero byte of a line, takes at least one byte (R110 to R123). -/
theorem basToken_itemsLeft {c : Nat} {i : Instr} (hi : i.place = .basToken) (hc : s.cur = some c) (hlt : c < s.d.size)
    (h : exec i s = .next t) : t.itemsLeft ≤ s.d.size - c := by
  have token {x : Text} {len : Nat} (hlen : 0 < len) (h : emitToken s x len = .next t) : t.itemsLeft ≤ s.d.size - c := by
    have := emitToken_itemsLeft hc h
    omega
  cases i with
  | basEol =>
    obtain ⟨c', hc', h⟩ := execBasEol_next h
    obtain rfl : c = c' := Option.some.inj (hc.symm.trans hc')
    have hle : t.itemsLeft ≤ s.d.size - (c + 1) + 1 := startLine_itemsLeft (s := (s.emit [NL]).withCur (c + 1)) rfl h
    omega
  | basUnl b =>
    obtain ⟨u, rfl⟩ | ⟨x, h⟩ := execBasUnl_next h
    · exact Nat.zero_le _
    · exact token Nat.one_pos h
  | basInt2 | basInt1 | basFlt4 | basColrem | basColelse | basExt | basPrim | basStr | basChr | basDig =>
    exact token (Nat.succ_pos _) h
  | _ => cases hi

/-! ### WBASS2 -/

theorem Scans.itemsLeft_le {c : Nat} (h : Scans s t) (hc : s.cur = some c) : t.itemsLeft ≤ s.d.size - c + 1 := by
  obtain rfl | rfl := h
  · exact (itemsLeft_of_cur (s := s.goto .operand) hc (.inr (.inr (.inr rfl)))).le
  · exact (itemsLeft_of_cur (s := endRecord s) hc (.inr (.inl rfl))).le

/-- An operand that takes at least one byte (R144). -/
theorem scanFrom_itemsLeft {c len : Nat} (hc : s.cur = some c) (hlt : c < s.d.size) (hlen : 0 < len)
    (h : scanFrom s len = .next t) : t.itemsLeft ≤ s.d.size - c := by
  obtain ⟨c', hc', h⟩ := scanFrom_scans h
  obtain rfl : c = c' := Option.some.inj (hc.symm.trans hc')
  have hle : t.itemsLeft ≤ s.d.size - (c + len) + 1 := h.itemsLeft_le rfl
  omega

/-- Where the cursor has moved past a byte of `D`, no more items are left than bytes from that one on. -/
theorem itemsLeft_le_of_cur_lt {c c' : Nat} (hlt : c < s.d.size) (hcc : c < c') (hd : t.d = s.d) (hc : t.cur = some c')
    (hpt : t.pt = .recordLength ∨ t.pt = .lead) : t.itemsLeft ≤ s.d.size - c := by
  have hleft := itemsLeft_of_cur hc (.inr (hpt.imp_right .inl))
  rw [hd] at hleft
  omega

/-- The pre-pass takes at least its length byte, and the main pass has no more items than its own bytes (R134, R135). -/
theorem execWbPrepass_itemsLeft {p : Nat} {l : Byte} (hpt : s.pt = .prepass p) (hp : p < s.d.size)
    (h : execWbPrepass l s = .next t) : t.itemsLeft < s.itemsLeft := by
  have hleft := itemsLeft_of_prepass hpt
  obtain ⟨p', hpt', ⟨-, rfl⟩ | ⟨-, rfl⟩⟩ := execWbPrepass_next h
  all_goals obtain rfl : p = p' := Point.prepass.inj (hpt.symm.trans hpt')
  · have hmain := itemsLeft_of_cur (s := { s with tbl := some (p + 1), cur := some 1, pt := .recordLength }) rfl
      (.inr (.inl rfl))
    exact hmain.trans_lt (by rw [hleft]; dsimp only; omega)
  · have hnext : (s.goto (.prepass (p + 1 + (l.extractLsb' 0 7).toNat))).itemsLeft =
        (s.d.size - (p + 1 + (l.extractLsb' 0 7).toNat)) + s.d.size + 2 := itemsLeft_of_prepass rfl
    omega

/-- A length byte of the main pass takes at least itself (R134 to R138). -/
theorem recordLength_itemsLeft {c : Nat} {i : Instr} (hi : i.place = .recordLength) (hc : s.cur = some c)
    (hlt : c < s.d.size) (h : exec i s = .next t) : t.itemsLeft ≤ s.d.size - c := by
  cases i with
  | wbEnd =>
    cases h
    exact Nat.zero_le _
  | wbBlank =>
    obtain ⟨c', hc', rfl⟩ := execWbBlank_next h
    obtain rfl : c = c' := Option.some.inj (hc.symm.trans hc')
    exact itemsLeft_le_of_cur_lt hlt (Nat.lt_succ_self c) rfl rfl (.inl rfl)
  | wbRec l =>
    obtain ⟨c', hc', rfl⟩ := execWbRec_next h
    obtain rfl : c = c' := Option.some.inj (hc.symm.trans hc')
    exact itemsLeft_le_of_cur_lt hlt (Nat.lt_succ_self c) rfl rfl (.inr rfl)
  | wbLrec l =>
    obtain ⟨c', hc', ⟨e, info, rfl | rfl⟩ | ⟨-, x, ⟨-, rfl⟩ | ⟨-, rfl⟩⟩⟩ := execWbLrec_next h
    all_goals obtain rfl : c = c' := Option.some.inj (hc.symm.trans hc')
    · exact Nat.zero_le _
    · exact Nat.zero_le _
    · exact itemsLeft_le_of_cur_lt (c' := c + 1 + 2) hlt (by omega) (by simp) (by simp) (.inl rfl)
    · exact itemsLeft_le_of_cur_lt (c' := c + 1 + 2) hlt (by omega) (by simp) (by simp) (.inr rfl)
  | _ => cases hi

/-- A lead takes at least itself, or its record (R141 to R143). -/
theorem lead_itemsLeft {c r : Nat} {i : Instr} (hi : i.place = .lead) (hc : s.cur = some c) (hr : s.rend = some r)
    (hcr : c < r) (hlt : c < s.d.size) (h : exec i s = .next t) : t.itemsLeft ≤ s.d.size - c := by
  cases i with
  | wbLcmt text =>
    obtain ⟨r', x, hr', rfl⟩ := execWbLcmt_next h
    obtain rfl : r = r' := Option.some.inj (hr.symm.trans hr')
    exact itemsLeft_le_of_cur_lt hlt hcr rfl rfl (.inl rfl)
  | wbLmn m =>
    obtain ⟨c', r', x, hc', -, h⟩ := execWbLmn_next h
    obtain rfl : c = c' := Option.some.inj (hc.symm.trans hc')
    have hle : t.itemsLeft ≤ s.d.size - (c + 1) + 1 := (scanLoop_scans h).itemsLeft_le rfl
    omega
  | wbLunl b =>
    obtain ⟨u, rfl⟩ | ⟨r', x, hr', rfl⟩ := execWbLunl_next h
    · exact Nat.zero_le _
    · obtain rfl : r = r' := Option.some.inj (hr.symm.trans hr')
      exact itemsLeft_le_of_cur_lt hlt hcr rfl rfl (.inl rfl)
  | _ => cases hi

/-- An operand takes at least one byte, or its record (R144 to R152). -/
theorem operand_itemsLeft {c r : Nat} {i : Instr} (hi : i.place = .operand) (hc : s.cur = some c) (hr : s.rend = some r)
    (hcr : c < r) (hlt : c < s.d.size) (h : exec i s = .next t) : t.itemsLeft ≤ s.d.size - c := by
  cases i with
  | wbCmt text =>
    obtain ⟨r', x, hr', rfl⟩ := execWbCmt_next h
    obtain rfl : r = r' := Option.some.inj (hr.symm.trans hr')
    exact itemsLeft_le_of_cur_lt hlt hcr rfl rfl (.inl rfl)
  | wbOp => exact scanFrom_itemsLeft (s := s.emitDropping _) hc hlt (Nat.succ_pos _) h
  | wbStr | wbNumd | wbNumh | wbNumb | wbLogic | wbCond | wbReg =>
    exact scanFrom_itemsLeft (s := s.emitAtom _) hc hlt (Nat.succ_pos _) h
  | wbLref idx =>
    obtain ⟨off, rfl⟩ | ⟨x, h⟩ := execWbLref_next h
    · exact Nat.zero_le _
    · exact scanFrom_itemsLeft (s := s.emitAtom x) hc hlt (Nat.succ_pos _) h
  | wbTunl b =>
    obtain ⟨u, rfl⟩ | ⟨x, h⟩ := execWbTunl_next h
    · exact Nat.zero_le _
    · exact scanFrom_itemsLeft (s := s.emit x) hc hlt Nat.one_pos h
  | _ => cases hi

end

/-! ### Every item -/

section
variable {s t : State}

/-- Wherever the block is ready in mid-invocation, at least the item that stands there is left. -/
theorem itemsLeft_pos (hr : s.Ready) (hpt : s.pt ≠ .dispatch) : 0 < s.itemsLeft := by
  cases hp : s.pt
  all_goals
    rw [itemsLeft_of hp]
    simp only [State.Ready, hp] at hr
    simp only [Point.screenItemsLeft, Point.stampItemsLeft, Point.walkerItemsLeft]
  case dispatch => exact absurd hp hpt
  case nibbles | packedRgb | group =>
    obtain ⟨f, beg, eff, hs, -, -, -, ha⟩ := hr
    have := hs.bound
    omega
  case groupPixel =>
    obtain ⟨⟨f, beg, eff, hs, -, -, -, ha⟩, -⟩ := hr
    have := hs.bound
    omega
  case stampPair i =>
    obtain ⟨-, -, -, n, -, hi, hsize⟩ := hr
    have := stampPixel_lt hi hsize
    omega
  all_goals omega

/-- An item that completes at a ready place leaves fewer items (R171). -/
theorem exec_itemsLeft_lt {bs : List Byte} {i : Instr} (hd : s.d.wf) (hr : s.Ready) (hpt : s.pt ≠ .dispatch)
    (hbytes : nextBytes s = .ok bs) (hne : bs ≠ []) (hi : SpelledAt (placeOf s) i) (h : exec i s = .next t) :
    t.itemsLeft < s.itemsLeft := by
  have hready := hr
  cases hp : s.pt
  all_goals
    simp only [placeOf, hp] at hi
    simp only [State.Ready, hp] at hr
    have hleft := itemsLeft_of hp
    simp only [Point.screenItemsLeft, Point.stampItemsLeft, Point.walkerItemsLeft, Nat.zero_add, Nat.add_zero] at hleft
  case dispatch => exact absurd hp hpt
  case groupPixel a k =>
    obtain ⟨⟨f, beg, eff, hs, -, -, -, ha⟩, -⟩ := hr
    have haddress : a + 4 < 0x10000 := Nat.lt_succ_of_le (ha.trans hs.bound)
    cases i with
    | yae idx =>
      obtain ⟨c, h⟩ := execYae_next h
      exact drawGroupPixel_itemsLeft hp haddress h
    | yjk y =>
      obtain ⟨c, h⟩ := execYjk_next h
      exact drawGroupPixel_itemsLeft hp haddress h
    | _ => obtain h | ⟨-, h⟩ := hi <;> cases h
  all_goals replace hi := hi.place_eq nofun
  case screenHeader =>
    cases i with
    | scrhdr beg fin => exact hleft ▸ execScrhdr_itemsLeft h
    | _ => cases hi
  case paletteWord src j =>
    cases i with
    | palword r g b => exact execPalword_itemsLeft hp h
    | _ => cases hi
  case nibbles a =>
    obtain ⟨f, beg, eff, hs, -, -, -, ha⟩ := hr
    cases i with
    | nib hi lo => exact execNib_itemsLeft hp (ha.trans_le (hs.bound.trans (by decide))) h
    | _ => cases hi
  case packedRgb a =>
    obtain ⟨f, beg, eff, hs, -, -, -, ha⟩ := hr
    cases i with
    | rgb8 g r b => exact execRgb8_itemsLeft hp (ha.trans_le (hs.bound.trans (by decide))) h
    | _ => cases hi
  case group a =>
    obtain ⟨f, beg, eff, hs, -, -, -, ha⟩ := hr
    have hbound := hs.bound
    cases i with
    | yjkgrp g0 g1 g2 g3 => exact execYjkgrp_itemsLeft hp (by omega) h
    | _ => cases hi
  case stampHeader =>
    cases i with
    | stphdr sw sh => exact hleft ▸ execStphdr_itemsLeft h
    | _ => cases hi
  case stampPair j =>
    obtain ⟨-, -, -, n, -, hj, hsize⟩ := hr
    have hdraw {v : BitVec 4} := drawStamp_itemsLeft (t := t) (v := v) hp (stampPixel_lt hj hsize)
    cases i with
    | stp0 => exact hdraw h
    | stp1 => exact hdraw h
    | stphi low =>
      obtain rfl | ⟨v, h⟩ := execStphi_next h
      · exact itemsLeft_pos hready hpt
      · exact hdraw h
    | _ => cases hi
  case basSignature =>
    cases i with
    | basFile =>
      have hle := startLine_itemsLeft (s := s.withCur 1) rfl h
      rw [State.withCur_d] at hle
      omega
    | _ => cases hi
  case basToken =>
    obtain ⟨-, c, hc, hlt⟩ := hr
    rw [hleft, hc]
    exact Nat.lt_succ_of_le (basToken_itemsLeft hi hc hlt h)
  case bcd =>
    obtain ⟨c, hc⟩ := Option.isSome_iff_exists.1 hr.2
    cases i with
    | basBcd f0 f1 f2 f3 =>
      have hle := emitToken_itemsLeft hc h
      rw [hleft, hc, Option.getD_some]
      omega
    | _ => cases hi
  case wbSignature =>
    cases i with
    | wbFile =>
      cases h
      rw [itemsLeft_of_prepass (p := 1) rfl, State.goto_d]
      omega
    | _ => cases hi
  case prepass p =>
    rw [nextBytes, hp] at hbytes
    cases hbytes
    cases i with
    | wbPrepass l => exact execWbPrepass_itemsLeft hp (lt_of_run_ne_nil hd hne).1 h
    | _ => cases hi
  case recordLength =>
    obtain ⟨c, hc⟩ := Option.isSome_iff_exists.1 hr.2.1
    cases (nextBytes_recordLength hp hc).symm.trans hbytes
    rw [hleft, hc]
    exact Nat.lt_succ_of_le (recordLength_itemsLeft hi hc (lt_of_run_ne_nil hd hne).1 h)
  case labelSlot =>
    obtain ⟨c, hc⟩ := Option.isSome_iff_exists.1 hr.2.1
    cases i with
    | wbSlot name =>
      have hle := Scans.itemsLeft_le (s := s.emit (nameText name)) (scanLoop_scans h) hc
      rw [hleft, hc]
      exact Nat.lt_succ_of_le hle
    | _ => cases hi
  all_goals
    obtain ⟨-, hcur, hrend, -⟩ := hr
    obtain ⟨c, hc⟩ := Option.isSome_iff_exists.1 hcur
    obtain ⟨r, hr⟩ := Option.isSome_iff_exists.1 hrend
    simp only [nextBytes, hp, recordBytes_of hc hr] at hbytes
    cases hbytes
    obtain ⟨hlt, hcr⟩ := lt_of_run_ne_nil hd hne
    rw [hleft, hc]
  case lead => exact Nat.lt_succ_of_le (lead_itemsLeft hi hc hr (Nat.lt_of_sub_pos hcr) hlt h)
  case operand => exact Nat.lt_succ_of_le (operand_itemsLeft hi hc hr (Nat.lt_of_sub_pos hcr) hlt h)

/-- Every step in mid-invocation leaves fewer items: an item by its place, a rejected one by ending the invocation. -/
theorem step_itemsLeft_lt (hd : s.d.wf) (hr : s.Ready) (hpt : s.pt ≠ .dispatch) (h : step s = .next t) :
    t.itemsLeft < s.itemsLeft := by
  obtain ⟨bs, i, rest, hbytes, hdec, hexec⟩ | ⟨e, info, rfl⟩ := step_next h
  · exact exec_itemsLeft_lt hd hr hpt hbytes (ne_nil_of_decode hpt hdec) (decode_spelledAt _ _ i rest hdec) hexec
  · exact itemsLeft_pos hr hpt

end

/-! ### Whole invocations -/

/-- An item that leaves the operation in progress has not ended the invocation; every other one writes `RES` (R26). -/
theorem ItemEnds.res_or_op {s t : State} (h : ItemEnds s t) : (∃ r, t.res = some r) ∨ t.op = s.op := by
  cases h with
  | goto pt => exact .inr rfl
  | _ => exact .inl ⟨_, rfl⟩

theorem ItemRuns.res_or_op {s t : State} {i : Instr} (h : ItemRuns s i t) : (∃ r, t.res = some r) ∨ t.op = s.op := by
  cases h with
  | done hw he =>
    obtain hres | hop := he.res_or_op
    · exact .inl hres
    · exact .inr (hop.trans (by cases hw <;> rfl))
  | _ => exact .inl ⟨_, rfl⟩

theorem step_res_or_op {s t : State} (hpt : s.pt ≠ .dispatch) (h : step s = .next t) :
    (∃ r, t.res = some r) ∨ t.op = s.op := by
  obtain ⟨bs, i, rest, -, hdec, hexec⟩ | ⟨e, info, rfl⟩ := step_next h
  · exact (exec_runs (nextItem_isItem hpt hdec) hexec).res_or_op
  · exact .inl ⟨_, rfl⟩

/-- An invocation of `o` in the input of `s` is in progress, or has ended with `RES` written. -/
structure State.Proceeds (s : State) (o : Operation) (t : State) : Prop where
  runs : t.Runs o
  input : t.d = s.d
  written : t.pt = .dispatch → ∃ r, t.res = some r

theorem enter_proceeds (s : State) (o : Operation) : s.Proceeds o (s.enter o) where
  runs := enter_runs s o
  input := rfl
  written := fun h => by cases o <;> cases h

/-- At dispatch no operation is in progress, so that the step that leads there has written `RES`. -/
theorem step_proceeds {s t u : State} {o : Operation} (h : s.Proceeds o t) (hpt : t.pt ≠ .dispatch) (hstep : step t = .next u) :
    s.Proceeds o u where
  runs := step_keeps_runs h.runs hpt hstep
  input := (step_samePorts hstep).2.1.trans h.input
  written := fun hend => by
    obtain hres | hop := step_res_or_op hpt hstep
    · exact hres
    · have hnone : u.op = none := by
        have hready := (step_keeps_runs h.runs hpt hstep).place
        rwa [State.Ready, hend] at hready
      exact absurd (hop.symm.trans hnone) (by simp [(h.runs.inside hpt).1])

/-- An operation runs to its end within `itemBound` items (R171). -/
theorem exec_legal_ends {s : State} (hd : s.d.wf) (o : Operation) :
    ∃ t r, exec (decodeTag (.legal o)) s = .next t ∧ t.pt = .dispatch ∧ t.res = some r := by
  have hkeeps : ∀ u, s.Proceeds o u → u.pt ≠ .dispatch →
      ∃ t, step u = .next t ∧ s.Proceeds o t ∧ t.itemsLeft < u.itemsLeft := by
    intro u hu hpt
    obtain ⟨t, hstep, -⟩ := step_lands hu.runs hpt
    exact ⟨t, hstep, step_proceeds hu hpt hstep, step_itemsLeft_lt (hu.input ▸ hd) hu.runs.place hpt hstep⟩
  obtain ⟨t, hrun, ht, hpt⟩ := runItems_ends hkeeps (enter_proceeds s o) (enter_itemsLeft_le s o)
  obtain ⟨r, hres⟩ := ht.written hpt
  exact ⟨t, r, (exec_legal o s).trans hrun, hpt, hres⟩

/-- Settles O11: every item leaves fewer items, of which there are at most `itemBound` at the start; an unknown tag fails at
once. -/
theorem everyInvocationEnds : Obligations.EveryInvocationEnds := by
  intro s hs hpt
  rw [step_dispatch hpt]
  cases s.tag with
  | legal o => exact exec_legal_ends hs.input o
  | other k => exact ⟨_, _, exec_other k s, rfl, rfl⟩

end Sys2Proof.Machine
end
